-- ==== Sys2Proof/Word.lean ====
section
/-! DEFINITION. The word types of the block: bytes (R9, R10) and the 32-bit words of the control registers and of the
command port (R32, R90). Big numbers are not words: they are natural numbers (R22, log entry 4). -/

namespace Sys2Proof

/-- A byte, bit 0 least significant (R9). -/
abbrev Byte := BitVec 8

/-- A control register or a command word (R32, R90). -/
abbrev Word := BitVec 32

/-- The 32-byte string the hash port answers with (R185). -/
abbrev Digest := Vector Byte 32

/-- The hash port: a total function from byte strings of any length to 32 bytes (R185). -/
abbrev HashPort := List Byte → Digest

end Sys2Proof
end

