-- ==== Sys2Proof/Syntax.lean ====
section
/-! DEFINITION. The commands of the block: one constructor for each row of spec/opcode_table.json (R94). -/

namespace Sys2Proof

/-- The seven big-number registers a command word can name, in index order 0 to 6 (R21). -/
inductive Reg where
  /-- The modulus (R23). -/
  | N
  /-- `R^2 mod N` (R24). -/
  | RR
  /-- The constant 1, hardwired (R25). -/
  | ONE
  /-- The signature (R26). -/
  | S
  /-- Accumulator (R26). -/
  | A
  /-- General operand (R26). -/
  | B
  /-- General operand (R26). -/
  | C
  deriving DecidableEq, Repr

/-- A command with its register operands. `rd` is the destination, `ra` and `rb` the sources (R90, R91). -/
inductive Instr where
  | nop
  | modset
  | mul (ra rb : Reg)
  | redc (rd : Reg)
  | mmul (rd ra rb : Reg)
  | modmul (rd ra rb : Reg)
  | modexp
  | serbe (ra : Reg)
  | mgf1
  | psschk
  | pkcschk
  | verifypss
  | verifypkcs
  deriving DecidableEq, Repr

end Sys2Proof
end

