-- ==== Sys2Proof/WellFormed.lean ====
section
/-! DEFINITION. Which commands have an encoding: R96, the destination field may name only A, B or C. (A source field may
name any register that exists, and `Reg` has no other values.) -/

namespace Sys2Proof

/-- A register a command may write: A, B or C (R96). -/
def Reg.isDest : Reg → Bool
  | .A | .B | .C => true
  | .N | .RR | .ONE | .S => false

/-- R96: every destination field names A, B or C. -/
def Instr.wellFormed : Instr → Bool
  | .redc rd => rd.isDest
  | .mmul rd _ _ => rd.isDest
  | .modmul rd _ _ => rd.isDest
  | .nop | .modset | .mul _ _ | .modexp | .serbe _ | .mgf1 | .psschk | .pkcschk | .verifypss | .verifypkcs => true

end Sys2Proof
end

