-- ==== Sys2Proof/Decode.lean ====
section
/-! DEFINITION. Command words: the decoder, total on every 32-bit word and rejecting by name (R95), then the encoder
(R94), and the host's `decodeTableWord`. -/

namespace Sys2Proof

/-- The five formats, which differ in the register fields that carry an operand (R91). -/
inductive Format where
  | Z | D | A | AB | DAB
  deriving DecidableEq, Repr

/-- One row of the opcode map (R94). -/
structure OpRow where
  mnemonic : String
  opcode   : Byte
  format   : Format
  mask     : Word
  pattern  : Word
  deriving DecidableEq, Repr

/-- R94, the complete table, in its order. -/
def opcodeTable : List OpRow :=
  [ ⟨"NOP",        0x00, .Z,   0xFFFFFFFF, 0x00000000⟩,
    ⟨"MODSET",     0x01, .Z,   0xFFFFFFFF, 0x00000001⟩,
    ⟨"MUL",        0x10, .AB,  0xFFF00FFF, 0x00000010⟩,
    ⟨"REDC",       0x11, .D,   0xFFFFF0FF, 0x00000011⟩,
    ⟨"MMUL",       0x12, .DAB, 0xFFF000FF, 0x00000012⟩,
    ⟨"MODMUL",     0x13, .DAB, 0xFFF000FF, 0x00000013⟩ ] ++
  [ ⟨"MODEXP",     0x20, .Z,   0xFFFFFFFF, 0x00000020⟩,
    ⟨"SERBE",      0x30, .A,   0xFFFF0FFF, 0x00000030⟩,
    ⟨"MGF1",       0x40, .Z,   0xFFFFFFFF, 0x00000040⟩,
    ⟨"PSSCHK",     0x50, .Z,   0xFFFFFFFF, 0x00000050⟩,
    ⟨"PKCSCHK",    0x51, .Z,   0xFFFFFFFF, 0x00000051⟩,
    ⟨"VERIFYPSS",  0x60, .Z,   0xFFFFFFFF, 0x00000060⟩,
    ⟨"VERIFYPKCS", 0x61, .Z,   0xFFFFFFFF, 0x00000061⟩ ]

/-- Why a word is illegal (R95, R96, R97). The hardware does not record which: every one faults `IllegalCommand`. -/
inductive Illegal where
  /-- A bit of 31:20 is set. -/
  | reservedBits
  /-- One of the 243 unassigned opcodes. -/
  | unassignedOpcode
  /-- A register field that the format does not use is not 0. -/
  | unusedField
  /-- The destination field does not name A, B or C. -/
  | badDestination
  /-- A source field names none of registers 0 to 6. -/
  | badSource
  deriving DecidableEq, Repr

/-- Bits 7:0 (R90). -/
def Word.opcode (w : Word) : Byte := w.extractLsb' 0 8
/-- Bits 11:8 (R90). -/
def Word.rd (w : Word) : BitVec 4 := w.extractLsb' 8 4
/-- Bits 15:12 (R90). -/
def Word.ra (w : Word) : BitVec 4 := w.extractLsb' 12 4
/-- Bits 19:16 (R90). -/
def Word.rb (w : Word) : BitVec 4 := w.extractLsb' 16 4
/-- Bits 31:20, which must be 0 (R90). -/
def Word.zero (w : Word) : BitVec 12 := w.extractLsb' 20 12

/-- The register a 4-bit index names (R21): 7 to 15 name none. -/
def Reg.ofIndex (k : BitVec 4) : Option Reg :=
  match k.toNat with
  | 0 => some .N
  | 1 => some .RR
  | 2 => some .ONE
  | 3 => some .S
  | 4 => some .A
  | 5 => some .B
  | 6 => some .C
  | _ => none

/-- The index of a register (R21). -/
def Reg.index : Reg → BitVec 4
  | .N => 0
  | .RR => 1
  | .ONE => 2
  | .S => 3
  | .A => 4
  | .B => 5
  | .C => 6

/-- A source field: any register that exists (R96). -/
def sourceField (k : BitVec 4) : Except Illegal Reg :=
  match Reg.ofIndex k with
  | some r => .ok r
  | none => .error .badSource

/-- A destination field: A, B or C (R96). -/
def destField (k : BitVec 4) : Except Illegal Reg :=
  match Reg.ofIndex k with
  | some r => if r.isDest then .ok r else .error .badDestination
  | none => .error .badDestination

/-- A field that the format does not use must be 0 (R91). -/
def unusedField (k : BitVec 4) : Except Illegal Unit :=
  if k = 0 then .ok () else .error .unusedField

/-- Format Z: no operand. -/
def formatZ (w : Word) (i : Instr) : Except Illegal Instr := do
  unusedField w.rd
  unusedField w.ra
  unusedField w.rb
  .ok i

/-- Format D: the operand `rd`. -/
def formatD (w : Word) (f : Reg → Instr) : Except Illegal Instr := do
  unusedField w.ra
  unusedField w.rb
  let rd ← destField w.rd
  .ok (f rd)

/-- Format A: the operand `ra`. -/
def formatA (w : Word) (f : Reg → Instr) : Except Illegal Instr := do
  unusedField w.rd
  unusedField w.rb
  let ra ← sourceField w.ra
  .ok (f ra)

/-- Format AB: the operands `ra`, `rb`. -/
def formatAB (w : Word) (f : Reg → Reg → Instr) : Except Illegal Instr := do
  unusedField w.rd
  let ra ← sourceField w.ra
  let rb ← sourceField w.rb
  .ok (f ra rb)

/-- Format DAB: the operands `rd`, `ra`, `rb`. -/
def formatDAB (w : Word) (f : Reg → Reg → Reg → Instr) : Except Illegal Instr := do
  let rd ← destField w.rd
  let ra ← sourceField w.ra
  let rb ← sourceField w.rb
  .ok (f rd ra rb)

/-- R95: from any 32-bit word to a command with its register operands, or the reason it is illegal. -/
def decode (w : Word) : Except Illegal Instr :=
  if w.zero ≠ 0 then .error .reservedBits
  else
    match w.opcode.toNat with
    | 0x00 => formatZ w .nop
    | 0x01 => formatZ w .modset
    | 0x10 => formatAB w .mul
    | 0x11 => formatD w .redc
    | 0x12 => formatDAB w .mmul
    | 0x13 => formatDAB w .modmul
    | 0x20 => formatZ w .modexp
    | 0x30 => formatA w .serbe
    | 0x40 => formatZ w .mgf1
    | 0x50 => formatZ w .psschk
    | 0x51 => formatZ w .pkcschk
    | 0x60 => formatZ w .verifypss
    | 0x61 => formatZ w .verifypkcs
    | _ => .error .unassignedOpcode

/-- The word of the layout of R90 with these fields and `zero` 0. -/
def packWord (opcode : Byte) (rd ra rb : BitVec 4) : Word :=
  (0 : BitVec 12) ++ rb ++ ra ++ rd ++ opcode

/-- The word of a command (R94); unused fields 0 (R91). -/
def encode : Instr → Word
  | .nop => packWord 0x00 0 0 0
  | .modset => packWord 0x01 0 0 0
  | .mul ra rb => packWord 0x10 0 ra.index rb.index
  | .redc rd => packWord 0x11 rd.index 0 0
  | .mmul rd ra rb => packWord 0x12 rd.index ra.index rb.index
  | .modmul rd ra rb => packWord 0x13 rd.index ra.index rb.index
  | .modexp => packWord 0x20 0 0 0
  | .serbe ra => packWord 0x30 0 ra.index 0
  | .mgf1 => packWord 0x40 0 0 0
  | .psschk => packWord 0x50 0 0 0
  | .pkcschk => packWord 0x51 0 0 0
  | .verifypss => packWord 0x60 0 0 0
  | .verifypkcs => packWord 0x61 0 0 0

/-- The 32-bit word whose low `nbits` bits are those of `w` and whose other bits are 0. -/
def tableWord (nbits w : Nat) : Word := BitVec.ofNat 32 (w % 2 ^ nbits)

/-- What the decoder reads from the instruction whose bits are `w`, numbered as spec/opcode_table.json numbers them. Every
command is one 32-bit word (R90, R98), so there is one word and no order of words or bytes to choose. -/
def decodeTableWord (nbits w : Nat) : Option Instr :=
  match decode (tableWord nbits w) with
  | .ok i => some i
  | .error _ => none

end Sys2Proof
end

