-- ==== Sys2Proof/Config.lean ====
section
/-! DEFINITION. What one built block fixes (R5), and the one value the spec leaves open (R27, U3). -/

namespace Sys2Proof

/-- The OPEN parameters of one built block (R5). The derived ones (KEY_LEN, NUM_LIMBS, ...) are functions of these,
in `Sys2Proof/Machine/Params.lean`; `Hash` is the port of `Sys2Proof/Machine/Sha256.lean`; `BUS_MAP` is used by no rule. -/
structure Params where
  /-- MOD_BITS, the bit length of the modulus. -/
  modBits  : Nat
  /-- LIMB_BITS, the bits of one limb. -/
  limbBits : Nat
  /-- MASK_CAP, the bytes of the MASK buffer. -/
  maskCap  : Nat
  deriving DecidableEq, Repr

/-- DESIGN CHOICE (log entry 1): the built block whose reset state `State.reset` is: MOD_BITS 1024, LIMB_BITS 120,
MASK_CAP 64. `State.resetOf p` is the reset state of any other. -/
def Config.params : Params := { modBits := 1024, limbBits := 120, maskCap := 64 }

/-- The unspecified value of `T` after `MMUL`, `MODMUL`, `MODEXP`, `VERIFYPSS` and `VERIFYPKCS` (R27, U3): free, one
value for each count, nothing known of it (log entry 5). -/
opaque Config.freeT : Nat → Nat

end Sys2Proof
end

