-- ==== Sys2Proof/Machine/State.lean ====
section
/-! DEFINITION. The state of the block as the spec gives it (R20 to R47), the host's pending operations, and the reset
state (R47, R310). Plain data throughout. -/

namespace Sys2Proof.Machine

/-- The causes of a fault (R271), code 1 to 8 in this order; code 0 is `none`. -/
inductive Cause where
  /-- Code 1: `CSR.EXP` is neither 3 nor 65537 (R161). -/
  | invalidExponent
  /-- Code 2: the modulus has not exactly MOD_BITS bits or is even (R124). -/
  | modulusParam
  /-- Code 3: the command needs a modulus and `MOD_VALID` is 0 (R279). -/
  | modulusNotSet
  /-- Code 4: a source operand is out of range (R122, R175). -/
  | operandRange
  /-- Code 5: a mask of 2^37 bytes or more (R188); no command of a legal block reaches it. -/
  | maskTooLong
  /-- Code 6: the accepted word is no command (R276). -/
  | illegalCommand
  /-- Code 7: a slice longer than its destination (R172, R173); no command of a legal block reaches it. -/
  | sliceBounds
  /-- Code 8: `CSR.MLEN` exceeds the MASK buffer (R190). -/
  | bufferCapacity
  deriving DecidableEq, Repr

/-- The flags of `CSR.STATUS` (R31), bits 0 to 4; the other bits are never set and have no storage. -/
structure Status where
  busy     : Bool
  done     : Bool
  fault    : Bool
  modValid : Bool
  resValid : Bool
  deriving DecidableEq, Repr

/-- The fields of `CSR.FAULTCODE` (R39): CAUSE (`none` is code 0, no fault) and OPCODE. -/
structure FaultCode where
  cause  : Option Cause
  opcode : Byte
  deriving DecidableEq, Repr

/-- A byte buffer (R42): the bytes that are not 0, by rising index. An unlisted index reads 0, which is what every byte
of a buffer holds after reset (R47). -/
abbrev Memory := List Host.Cell

/-- The host operations (R60) and the hardware reset input (R310). Register, limb, buffer and byte numbers are the host's
own, existing or not (R66). -/
inductive HostOp where
  /-- `CsrRead(k)`. -/
  | csrRead (k : Nat)
  /-- `CsrWrite(k, v)`. -/
  | csrWrite (k : Nat) (v : Word)
  /-- `LimbRead(r, i)`. -/
  | limbRead (r i : Nat)
  /-- `LimbWrite(r, i, v)`; `v` is a limb (U15, log entry 9). -/
  | limbWrite (r i v : Nat)
  /-- `ByteRead(b, i)`. -/
  | byteRead (b i : Nat)
  /-- `ByteWrite(b, i, v)`. -/
  | byteWrite (b i : Nat) (v : Byte)
  /-- The hardware reset input of the block (R310). -/
  | hardReset
  deriving DecidableEq, Repr

/-- What a host operation returns (R60). -/
inductive Reply where
  /-- A write or a reset that took place. -/
  | ok
  /-- A control register read. -/
  | word (v : Word)
  /-- A limb read. -/
  | limb (v : Nat)
  /-- A byte read. -/
  | byte (v : Byte)
  /-- The access was refused and changed nothing (R68). -/
  | refused
  deriving DecidableEq, Repr

/-- One event of the total order of R73: a host operation, or the core's turn, at which a command that has been accepted
executes and completes or faults (R74). -/
inductive Event where
  | host (op : HostOp)
  | core
  deriving DecidableEq, Repr

/-- The state of one built block (R20), and after it the model's own three fields. -/
structure State where
  /-- The parameters the block was built with: what MODBITS, KEYLEN, LIMBBITS, NUMLIMBS and MASKCAP read (R41). -/
  params    : Params
  /-- `BN[0]`, the modulus, as the integer of R22. -/
  regN      : Nat
  /-- `BN[1]`, `R^2 mod N` (R24). -/
  regRR     : Nat
  /-- `BN[3]`, the signature (R26). `BN[2]`, ONE, is hardwired and has no storage (R25). -/
  regS      : Nat
  /-- `BN[4]` (R26). -/
  regA      : Nat
  /-- `BN[5]` (R26). -/
  regB      : Nat
  /-- `BN[6]` (R26). -/
  regC      : Nat
  /-- The wide product register (R27). -/
  regT      : Nat
  /-- The hidden register NP0, one limb (R35). -/
  np0       : Nat
  /-- `CSR.STATUS` (R31). -/
  status    : Status
  /-- The latched command word, which `CSR.CMD` reads (R34, R35). -/
  cmd       : Word
  /-- `CSR.EXP` (R37). -/
  exp       : Word
  /-- `CSR.RESULT.VERIFIED` (R38). -/
  verified  : Bool
  /-- `CSR.FAULTCODE` (R39). -/
  faultCode : FaultCode
  /-- `CSR.MLEN` (R40). -/
  mlen      : Word
  /-- Buffer 0, 32 bytes (R43). -/
  mhash     : Memory
  /-- Buffer 1, KEY_LEN bytes (R44). -/
  em        : Memory
  /-- Buffer 2, 32 bytes (R45). -/
  seed      : Memory
  /-- Buffer 3, MASK_CAP bytes (R46). -/
  mask      : Memory
  /-- The model's own: the events still to come, in order (R73, log entry 6). -/
  events    : List Event
  /-- The model's own: what the host operations have returned, in order (R60, log entry 8). -/
  replies   : List Reply
  /-- The model's own: how many free values of T have been taken (log entry 5). -/
  freeCount : Nat
  deriving DecidableEq, Repr

/-- R47, R310: the state after reset of the block built with `p`, with no event pending. -/
def State.resetOf (p : Params) : State :=
  { params := p
    regN := 0, regRR := 0, regS := 0, regA := 0, regB := 0, regC := 0, regT := 0, np0 := 0
    status := { busy := false, done := false, fault := false, modValid := false, resValid := false }
    cmd := 0, exp := 0, verified := false
    faultCode := { cause := none, opcode := 0 }
    mlen := 0
    mhash := [], em := [], seed := [], mask := []
    events := [], replies := [], freeCount := 0 }

/-- The state after reset of the block of `Config.params` (log entry 1). -/
def State.reset : State := State.resetOf Config.params

/-- Reasons for the machine itself to stop: the spec gives none, so there are none (log entry 16). A fault of the block is
a next state with `STATUS.FAULT` set (R272), "Nothing is stuck" (93_implementation_defined.md), and every access the block
does not allow is a reply `refused` (R68). -/
inductive Fault where
  deriving DecidableEq, Repr

/-- Reasons for an instruction to have no meaning. -/
inductive Refusal where
  /-- Raised by an arm of `exec` whose instruction has no meaning yet; safe. No arm raises it. -/
  | notModelled (mnemonic : String)
  deriving DecidableEq, Repr

end Sys2Proof.Machine
end

