-- ==== Sys2Proof/Machine/Params.lean ====
section
/-! DEFINITION. The derived parameters of one built block (R5, R6). -/

namespace Sys2Proof

/-- `ceil(a/b)` for positive integers (R5). -/
def ceilDiv (a b : Nat) : Nat := (a + b - 1) / b

/-- H_LEN and S_LEN (R5): the hash and the salt have 32 bytes each. -/
def hLen : Nat := 32
@[inherit_doc hLen] def sLen : Nat := 32

namespace Params

/-- A block that can be built (R5, R41): MOD_BITS at least 2, LIMB_BITS and MASK_CAP at least 1, each below 2^32. -/
abbrev Legal (p : Params) : Prop :=
  (2 ≤ p.modBits ∧ p.modBits < 2 ^ 32) ∧ (1 ≤ p.limbBits ∧ p.limbBits < 2 ^ 32) ∧ (1 ≤ p.maskCap ∧ p.maskCap < 2 ^ 32)

/-- KEY_LEN, the bytes of N and of EM. -/
def keyLen (p : Params) : Nat := ceilDiv p.modBits 8

/-- NUM_LIMBS, the limbs of a big number. -/
def numLimbs (p : Params) : Nat := ceilDiv p.modBits p.limbBits

/-- R, the Montgomery radix. -/
def radix (p : Params) : Nat := 2 ^ (p.limbBits * p.numLimbs)

/-- EM_BITS. -/
def emBits (p : Params) : Nat := p.modBits - 1

/-- EM_LEN. -/
def emLen (p : Params) : Nat := ceilDiv p.emBits 8

/-- DB_LEN, meaningful only when EM_LEN is at least 66. -/
def dbLen (p : Params) : Nat := p.emLen - hLen - 1

/-- R203: `keyLen - emLen`, 0 or 1, the leading bytes of EM that the PSS validator skips. -/
def pssOffset (p : Params) : Nat := p.keyLen - p.emLen

/-- R204: `8*emLen - emBits`, how many top bits of maskedDB[0] must be zero. -/
def bitsToMask (p : Params) : Nat := 8 * p.emLen - p.emBits

/-- R207: how many zero bytes stand before the 0x01 of the data block. -/
def psLen (p : Params) : Nat := p.emLen - hLen - sLen - 2

end Params

end Sys2Proof
end

