-- ==== Sys2Proof/Machine/Flags.lean ====
section
/-! DEFINITION. The status flags (R31), what a command does to them (R34, R74), and the words the host reads from the flag
and code registers (R31, R38, R39). The block has no arithmetic condition codes (R31). -/

namespace Sys2Proof.Machine

/-- The code of a cause (R271). -/
def Cause.code : Cause → Byte
  | .invalidExponent => 1
  | .modulusParam => 2
  | .modulusNotSet => 3
  | .operandRange => 4
  | .maskTooLong => 5
  | .illegalCommand => 6
  | .sliceBounds => 7
  | .bufferCapacity => 8

/-- A flag as a one-bit field. -/
def flagBit (b : Bool) : BitVec 1 := BitVec.ofBool b

/-- The word `CSR.STATUS` reads (R31): bit 0 BUSY, 1 DONE, 2 FAULT, 3 MOD_VALID, 4 RES_VALID, 31:5 zero. -/
def statusWord (f : Status) : Word :=
  (0 : BitVec 27) ++ flagBit f.resValid ++ flagBit f.modValid ++ flagBit f.fault ++ flagBit f.done ++ flagBit f.busy

/-- The word `CSR.RESULT` reads (R38): bit 0 VERIFIED, 31:1 zero. -/
def resultWord (v : Bool) : Word := (0 : BitVec 31) ++ flagBit v

/-- The word `CSR.FAULTCODE` reads (R39): CAUSE in 7:0, OPCODE in 15:8, 31:16 zero. -/
def faultCodeWord (c : FaultCode) : Word :=
  (0 : BitVec 16) ++ c.opcode ++ (match c.cause with | some k => k.code | none => 0)

/-- Acceptance of a command word (R34): BUSY set, DONE and RES_VALID cleared. -/
def Status.accepted (f : Status) : Status := { f with busy := true, done := false, resValid := false }

/-- Completion without a fault (R74): BUSY cleared, DONE set. -/
def Status.completed (f : Status) : Status := { f with busy := false, done := true }

/-- Completion of a checking command (R74): RES_VALID set as well. -/
def Status.checked (f : Status) : Status := { f with busy := false, done := true, resValid := true }

/-- A fault (R272): FAULT set, BUSY, DONE and RES_VALID cleared, MOD_VALID kept. -/
def Status.faulted (f : Status) : Status := { f with fault := true, busy := false, done := false, resValid := false }

/-- The core is idle: neither running a command nor faulted (R64). -/
def Status.idle (f : Status) : Bool := !f.busy && !f.fault

end Sys2Proof.Machine
end

