-- ==== Sys2Proof/Machine/Memory.lean ====
section
/-! DEFINITION. The operations on a byte buffer held in canonical form: indices strictly rising, no byte 0 listed. -/

namespace Sys2Proof.Machine.Memory

open Sys2Proof

/-- What an unlisted index reads as: the reset contents of every buffer (R47). -/
def resetByte : Byte := 0

/-- The byte at an index. -/
def read : Memory → Nat → Byte
  | [], _ => resetByte
  | (k, v) :: m, i => if i = k then v else read m i

/-- Put `v` at index `i`, keeping the canonical form: writing the reset byte removes the entry. -/
def write : Memory → Nat → Byte → Memory
  | [], i, v => if v = resetByte then [] else [(i, v)]
  | (k, x) :: m, i, v =>
    if i < k then (if v = resetByte then (k, x) :: m else (i, v) :: (k, x) :: m)
    else if i = k then (if v = resetByte then m else (i, v) :: m)
    else (k, x) :: write m i v

/-- The buffer that holds the bytes `bs` from index `i` on and the reset byte everywhere else. -/
def ofBytesFrom : Nat → List Byte → Memory
  | _, [] => []
  | i, b :: bs => if b = resetByte then ofBytesFrom (i + 1) bs else (i, b) :: ofBytesFrom (i + 1) bs

/-- The buffer that holds the byte string `bs` from index 0 on. -/
def ofBytes (bs : List Byte) : Memory := ofBytesFrom 0 bs

/-- The first `len` bytes, as a byte string. -/
def bytes (m : Memory) (len : Nat) : List Byte := (List.range len).map m.read

/-- The canonical form from index `lo` on. -/
def wfFrom : Nat → Memory → Bool
  | _, [] => true
  | lo, (k, v) :: m => decide (lo ≤ k) && decide (v ≠ resetByte) && wfFrom (k + 1) m

/-- The canonical form: indices strictly rising, no entry equal to what an unlisted index reads as. -/
def wf (m : Memory) : Bool := wfFrom 0 m

/-- Every listed index lies in a buffer of `len` bytes. -/
def inBounds (len : Nat) (m : Memory) : Bool := m.all fun c => decide (c.1 < len)

end Sys2Proof.Machine.Memory
end

