-- ==== Sys2Proof/Machine/Operands.lean ====
section
/-! DEFINITION. The operands of a command: the big-number registers as integers and as limbs (R22), the byte buffers as
byte strings (R42), and the conditions the modular commands put on them (R122, R161). -/

namespace Sys2Proof.Machine

/-- Limb `i` of the integer `v`, for limbs of `w` bits (R22). -/
def limb (w v i : Nat) : Nat := v / 2 ^ (w * i) % 2 ^ w

/-- The integer `v` with limb `i` replaced by the limb `x` (R22, R62). -/
def setLimb (w v i x : Nat) : Nat := v / 2 ^ (w * (i + 1)) * 2 ^ (w * (i + 1)) + x * 2 ^ (w * i) + v % 2 ^ (w * i)

/-- `BN[r]` (R22). ONE is hardwired: it reads 1 and has no storage (R25). -/
def State.bn (s : State) : Reg → Nat
  | .N => s.regN
  | .RR => s.regRR
  | .ONE => 1
  | .S => s.regS
  | .A => s.regA
  | .B => s.regB
  | .C => s.regC

/-- `BN[r] <- v` (R11). A write to ONE is discarded (R25); no command and no accepted host access makes one. -/
def State.setBn (s : State) (r : Reg) (v : Nat) : State :=
  match r with
  | .N => { s with regN := v }
  | .RR => { s with regRR := v }
  | .ONE => s
  | .S => { s with regS := v }
  | .A => { s with regA := v }
  | .B => { s with regB := v }
  | .C => { s with regC := v }

/-- The message hash as a byte string (R43). -/
def State.mhashBytes (s : State) : List Byte := s.mhash.bytes hLen

/-- The encoded message as a byte string of KEY_LEN bytes (R44). -/
def State.emBytes (s : State) : List Byte := s.em.bytes s.params.keyLen

/-- The seed of the MGF1 command as a byte string (R45). -/
def State.seedBytes (s : State) : List Byte := s.seed.bytes 32

/-- `EM[j] <- bs[j]` for every byte of EM; `bs` has KEY_LEN bytes. -/
def State.setEm (s : State) (bs : List Byte) : State := { s with em := Memory.ofBytes bs }

/-- The exponents the block supports (R37, R161). -/
def exponentOk (e : Word) : Bool := e == 3 || e == 65537

/-- The big-number operand `r` is below the modulus (R122 item 3). -/
def State.below (s : State) (r : Reg) : Bool := decide (s.bn r < s.bn .N)

/-- What the modular product commands require of the modulus and of two operands, in the order of R122. -/
def State.productFault (s : State) (ra rb : Reg) : Option Cause :=
  if !s.status.modValid then some .modulusNotSet
  else if !(s.below ra && s.below rb) then some .operandRange
  else none

/-- What the exponentiating commands require, in the order of R122: the exponent, the modulus, the signature. -/
def State.exponentFault (s : State) : Option Cause :=
  if !exponentOk s.exp then some .invalidExponent
  else if !s.status.modValid then some .modulusNotSet
  else if !s.below .S then some .operandRange
  else none

end Sys2Proof.Machine
end

