-- ==== Sys2Proof/Machine/Ops.lean ====
section
/-! DEFINITION. The shared operations: taking a fault (R272), the only way out of one (R274, R310), accepting a command
word (R34), completing a command (R74), and leaving T unspecified (R27). -/

namespace Sys2Proof.Machine

/-- R272, `raise Fault(c)`: FAULTCODE takes the cause and the low byte of the latched command word, FAULT is set, BUSY,
DONE and RES_VALID are cleared, and nothing else changes. No control goes anywhere: there is no vector and no handler. -/
def raiseFault (c : Cause) (s : State) : State :=
  { s with
    faultCode := { cause := some c, opcode := s.cmd.opcode }
    status := s.status.faulted }

/-- R274, R310: the only return from a fault is a reset. It may come at any time and leaves the state of R47; the model's
own fields are not the block's and stay. -/
def performReset (s : State) : State :=
  { State.resetOf s.params with events := s.events, replies := s.replies, freeCount := s.freeCount }

/-- R34: the core accepts the command word `w`. RESULT keeps its old value, which RES_VALID = 0 marks stale. -/
def acceptCommand (w : Word) (s : State) : State := { s with cmd := w, status := s.status.accepted }

/-- R74 (a): the command completes. -/
def complete (s : State) : State := { s with status := s.status.completed }

/-- R74 (a), R38: a checking command completes with its verdict. -/
def completeChecked (v : Bool) (s : State) : State := { s with verified := v, status := s.status.checked }

/-- R27, U3: T becomes unspecified, any value below `R^2` (log entry 5). -/
def freeT (s : State) : State :=
  { s with regT := Config.freeT s.freeCount % s.params.radix ^ 2, freeCount := s.freeCount + 1 }

/-- A command that faults if `c` names a cause and otherwise has the effect `f`. -/
def guarded (c : Option Cause) (f : State → State) (s : State) : Host.Outcome State Fault Refusal :=
  match c with
  | some k => .next (raiseFault k s)
  | none => .next (f s)

/-- A checking command whose function answered: its verdict, or a fault (U14: `slice` and `MGF1` are checked functions;
for a block that can be built neither fails here, R173, R188). -/
def finishCheck (v : Except Cause Bool) (s : State) : State :=
  match v with
  | .ok b => completeChecked b s
  | .error c => raiseFault c s

end Sys2Proof.Machine
end

