-- ==== Sys2Proof/Machine/Montgomery.lean ====
section
/-! DEFINITION. The Montgomery multiplier and reducer (R120 to R135): the functions on integers, and the meanings of
MODSET, MUL, REDC, MMUL and MODMUL. The limb-level reference sequences are in `Sys2Proof/Machine/LimbReference.lean`. -/

namespace Sys2Proof.Machine

/-- The number `x` of `k` bits with `x * n + 1` divisible by `2^k`, for an odd `n`, bit by bit from the lowest. -/
def nPrimeBits (n : Nat) : Nat → Nat
  | 0 => 0
  | k + 1 =>
    let x := nPrimeBits n k
    if (x * n + 1) % 2 ^ (k + 1) = 0 then x else x + 2 ^ k

/-- R123, `NPrime0(N)`: `-N^(-1) mod 2^LIMB_BITS`, from limb 0 of N alone (the method is free, U5; log entry 12). -/
def nPrime0 (p : Params) (n : Nat) : Nat := nPrimeBits (limb p.limbBits n 0) p.limbBits

/-- R123, `RR(N) = R^2 mod N`. -/
def montRR (p : Params) (n : Nat) : Nat := p.radix ^ 2 % n

/-- The rounds of R127: add `m*N`, drop the low limb, which is then 0. -/
def redcRounds (w np0 n : Nat) : Nat → Nat → Nat
  | 0, t => t
  | k + 1, t =>
    let m := t % 2 ^ w * np0 % 2 ^ w
    redcRounds w np0 n k ((t + m * n) / 2 ^ w)

/-- The one subtraction of the reducer (R127, R135). -/
def subtractOnce (n t : Nat) : Nat := if n ≤ t then t - n else t

/-- R127, `REDC(T, N)`: `T * Rinv mod N` for a valid modulus and `T < N*R`. -/
def redc (p : Params) (np0 n t : Nat) : Nat := subtractOnce n (redcRounds p.limbBits np0 n p.numLimbs t)

/-- R129, `MontMul(a, b, N) = REDC(a*b, N)`. -/
def montMul (p : Params) (np0 n a b : Nat) : Nat := redc p np0 n (a * b)

/-- R132, `ModMul(a, b, N)`. -/
def modMul (n a b : Nat) : Nat := a * b % n

/-- R124: the bit length is exactly MOD_BITS and the value is odd. -/
def modulusOk (p : Params) (n : Nat) : Bool :=
  decide (2 ^ (p.modBits - 1) ≤ n) && decide (n < 2 ^ p.modBits) && decide (n % 2 = 1)

/-- What MODSET requires (R124). -/
def State.modulusFault (s : State) : Option Cause :=
  if modulusOk s.params s.regN then none else some .modulusParam

/-- What MODSET writes (R124): NP0, RR and MOD_VALID. -/
def State.withContext (s : State) : State :=
  { s with
    np0 := nPrime0 s.params s.regN
    regRR := montRR s.params s.regN
    status := { s.status with modValid := true } }

/-- What REDC requires (R128): a modulus, and `T < N*R`. -/
def State.reduceFault (s : State) : Option Cause :=
  if !s.status.modValid then some .modulusNotSet
  else if s.regN * s.params.radix ≤ s.regT then some .operandRange
  else none

/-- The destination of a command must be A, B or C; no word decodes to another (R96, R97, log entry 10). -/
def destinationFault (rd : Reg) (c : Option Cause) : Option Cause :=
  if rd.isDest then c else some .illegalCommand

/-- R124, `MODSET`. -/
def execModset (s : State) : Host.Outcome State Fault Refusal :=
  guarded s.modulusFault (fun s => complete s.withContext) s

/-- R125, `MUL ra, rb`: the full product into T; no modulus and no range check. -/
def execMul (ra rb : Reg) (s : State) : Host.Outcome State Fault Refusal :=
  .next (complete { s with regT := s.bn ra * s.bn rb })

/-- R128, `REDC rd`: T reduced into `rd`; T unchanged. -/
def execRedc (rd : Reg) (s : State) : Host.Outcome State Fault Refusal :=
  guarded (destinationFault rd s.reduceFault)
    (fun s => complete (s.setBn rd (redc s.params s.np0 s.regN s.regT))) s

/-- R131, `MMUL rd, ra, rb`: the Montgomery product; T unspecified. -/
def execMmul (rd ra rb : Reg) (s : State) : Host.Outcome State Fault Refusal :=
  guarded (destinationFault rd (s.productFault ra rb))
    (fun s => complete (freeT (s.setBn rd (montMul s.params s.np0 s.regN (s.bn ra) (s.bn rb))))) s

/-- R133, `MODMUL rd, ra, rb`: the product modulo N; T unspecified. -/
def execModmul (rd ra rb : Reg) (s : State) : Host.Outcome State Fault Refusal :=
  guarded (destinationFault rd (s.productFault ra rb))
    (fun s => complete (freeT (s.setBn rd (modMul s.regN (s.bn ra) (s.bn rb))))) s

end Sys2Proof.Machine
end

