-- ==== Sys2Proof/Machine/ModExp.lean ====
section
/-! DEFINITION. The modular exponentiation engine (R160 to R164) and the meaning of MODEXP. -/

namespace Sys2Proof.Machine

/-- `k` squarings of the running value with the product `mul` (R160, R162). -/
def squarings (mul : Nat → Nat → Nat) : Nat → Nat → Nat
  | 0, t => t
  | k + 1, t => squarings mul k (mul t t)

/-- The ladders of R160 with the plain product: two products for exponent 3; sixteen squarings and one product for
65537. For another exponent the commands fault before they come here (R161, `State.exponentFault`). -/
def modExp (sig : Nat) (e : Word) (n : Nat) : Nat :=
  let t := modMul n sig sig
  if e = 3 then modMul n t sig else modMul n (squarings (modMul n) 15 t) sig

/-- R162, the micro-sequence in Montgomery products: a reference that no meaning calls. -/
def modExpMont (p : Params) (np0 rr : Nat) (sig : Nat) (e : Word) (n : Nat) : Nat :=
  let mul := montMul p np0 n
  let sm := mul sig rr
  let t := mul sm sm
  if e = 3 then mul t sig else mul (squarings mul 15 t) sig

/-- `BN[A] <- ModExp(BN[S], EXP, BN[N])`, T unspecified (R163, R251). -/
def exponentiate (s : State) : State := freeT (s.setBn .A (modExp s.regS s.exp s.regN))

/-- R163, `MODEXP`. -/
def execModexp (s : State) : Host.Outcome State Fault Refusal :=
  guarded s.exponentFault (fun s => complete (exponentiate s)) s

end Sys2Proof.Machine
end

