-- ==== Sys2Proof/Machine/Pkcs.lean ====
section
/-! DEFINITION. The PKCS#1 v1.5 comparator (R230 to R238) and the meaning of PKCSCHK (R239). -/

namespace Sys2Proof.Machine

/-- R231: byte `k` of the exponentiated signature counted from the least significant byte. -/
def leAt (p : Params) (em : List Byte) (k : Nat) : Byte := em.getD (p.keyLen - 1 - k) 0

/-- R233: the DigestInfo bytes for SHA-256, least significant first. -/
def digestInfo : List Byte :=
  [0x20, 0x04, 0x00, 0x05, 0x01, 0x02, 0x04, 0x03, 0x65, 0x01, 0x48, 0x86, 0x60, 0x09, 0x06, 0x0D, 0x30, 0x31, 0x30]

/-- The bytes `le(k)` for `k` in `[lo, lo + len)` all satisfy `ok k`. -/
def allFrom (lo len : Nat) (ok : Nat → Bool) : Bool := (List.range len).all fun j => ok (lo + j)

/-- R238, `PkcsCheck(mHash, EM)`. -/
def pkcsCheck (p : Params) (mHash em : List Byte) : Bool :=
  if p.keyLen < 54 then false
  else
    let le := leAt p em
    let psLen := p.keyLen - 54
    let okHash := allFrom 0 32 fun i => le (31 - i) == mHash.getD i 0
    let okPre := allFrom 32 19 fun k => le k == digestInfo.getD (k - 32) 0
    let okSep := le 51 == 0x00
    let okPs := allFrom 52 psLen fun k => le k == 0xFF
    let ok01 := le (52 + psLen) == 0x01
    let ok00 := le (53 + psLen) == 0x00
    let okRest := allFrom (54 + psLen) (p.keyLen - (54 + psLen)) fun k => le k == 0x00
    okHash && okPre && okSep && okPs && ok01 && ok00 && okRest

/-- `PKCSCHK` on the buffers MHASH and EM: the verdict goes to RESULT. -/
def checkPkcs (s : State) : State := completeChecked (pkcsCheck s.params s.mhashBytes s.emBytes) s

/-- R239, `PKCSCHK`. -/
def execPkcschk (s : State) : Host.Outcome State Fault Refusal := .next (checkPkcs s)

end Sys2Proof.Machine
end

