-- ==== Sys2Proof/Machine/ByteOrder.lean ====
section
/-! DEFINITION. The byte-order functions (R170 to R174) and the meaning of SERBE (R175). -/

namespace Sys2Proof.Machine

/-- R170, `LEBytes(v, len)`: least significant byte first. -/
def leBytes (v len : Nat) : List Byte := (List.range len).map fun k => BitVec.ofNat 8 (v / 2 ^ (8 * k))

/-- R171, `reverse`. -/
def reverseBytes (xs : List Byte) : List Byte := xs.reverse

/-- R172, `slice(X, start, end, M)`: fails if the range is longer than `M`, else copies it and fills up with zeros. -/
def slice (xs : List Byte) (start stop m : Nat) : Except Cause (List Byte) :=
  if m < stop - start then .error .sliceBounds
  else .ok ((xs.drop start).take (stop - start) ++ List.replicate (m - (stop - start)) 0)

/-- R174, `SerBE(v)`: big-endian, KEY_LEN bytes. -/
def serBE (p : Params) (v : Nat) : List Byte := reverseBytes (leBytes v p.keyLen)

/-- What SERBE requires (R175): the value fits KEY_LEN bytes. -/
def State.serializeFault (s : State) (ra : Reg) : Option Cause :=
  if 2 ^ (8 * s.params.keyLen) ≤ s.bn ra then some .operandRange else none

/-- `EM[j] <- SerBE(BN[r])[j]` (R175, R251). -/
def serialize (r : Reg) (s : State) : State := s.setEm (serBE s.params (s.bn r))

/-- R175, `SERBE ra`. -/
def execSerbe (ra : Reg) (s : State) : Host.Outcome State Fault Refusal :=
  guarded (s.serializeFault ra) (fun s => complete (serialize ra s)) s

end Sys2Proof.Machine
end

