-- ==== Sys2Proof/Machine/Sha256.lean ====
section
/-! DEFINITION. SHA-256 (R265 to R268), the function on the hash port of the built block: R5 requires `Hash` to be SHA-256.
Every function that calls the port takes it as an argument (R185, log entry 3). -/

namespace Sys2Proof.Machine.Sha256

open Sys2Proof

/-- The eight words `H0..H7`, or the working variables `a..h`. -/
structure Words where
  (a b c d e f g h : Word)
  deriving DecidableEq, Repr

/-- The initial state (R267). -/
def initial : Words :=
  ⟨0x6a09e667, 0xbb67ae85, 0x3c6ef372, 0xa54ff53a, 0x510e527f, 0x9b05688c, 0x1f83d9ab, 0x5be0cd19⟩

/-- The round constants (R267), row by row. -/
def roundConstants : List Word :=
  [0x428a2f98, 0x71374491, 0xb5c0fbcf, 0xe9b5dba5, 0x3956c25b, 0x59f111f1, 0x923f82a4, 0xab1c5ed5] ++
  [0xd807aa98, 0x12835b01, 0x243185be, 0x550c7dc3, 0x72be5d74, 0x80deb1fe, 0x9bdc06a7, 0xc19bf174] ++
  [0xe49b69c1, 0xefbe4786, 0x0fc19dc6, 0x240ca1cc, 0x2de92c6f, 0x4a7484aa, 0x5cb0a9dc, 0x76f988da] ++
  [0x983e5152, 0xa831c66d, 0xb00327c8, 0xbf597fc7, 0xc6e00bf3, 0xd5a79147, 0x06ca6351, 0x14292967] ++
  [0x27b70a85, 0x2e1b2138, 0x4d2c6dfc, 0x53380d13, 0x650a7354, 0x766a0abb, 0x81c2c92e, 0x92722c85] ++
  [0xa2bfe8a1, 0xa81a664b, 0xc24b8b70, 0xc76c51a3, 0xd192e819, 0xd6990624, 0xf40e3585, 0x106aa070] ++
  [0x19a4c116, 0x1e376c08, 0x2748774c, 0x34b0bcb5, 0x391c0cb3, 0x4ed8aa4a, 0x5b9cca4f, 0x682e6ff3] ++
  [0x748f82ee, 0x78a5636f, 0x84c87814, 0x8cc70208, 0x90befffa, 0xa4506ceb, 0xbef9a3f7, 0xc67178f2]

/-- Rotation to the right by `k` (R265), `0 < k < 32`. -/
def rotr (x : Word) (k : Nat) : Word := (x >>> k) ||| (x <<< (32 - k))

/-- `s0` of the schedule (R268). -/
def smallSigma0 (x : Word) : Word := rotr x 7 ^^^ rotr x 18 ^^^ (x >>> 3)
/-- `s1` of the schedule (R268). -/
def smallSigma1 (x : Word) : Word := rotr x 17 ^^^ rotr x 19 ^^^ (x >>> 10)
/-- `S0` of the rounds (R268). -/
def bigSigma0 (x : Word) : Word := rotr x 2 ^^^ rotr x 13 ^^^ rotr x 22
/-- `S1` of the rounds (R268). -/
def bigSigma1 (x : Word) : Word := rotr x 6 ^^^ rotr x 11 ^^^ rotr x 25
/-- `Ch` (R268). -/
def choose (x y z : Word) : Word := (x &&& y) ^^^ (~~~x &&& z)
/-- `Maj` (R268). -/
def majority (x y z : Word) : Word := (x &&& y) ^^^ (x &&& z) ^^^ (y &&& z)

/-- `k` further words of the schedule (R268). The list holds the newest word first, so `W[t-2]`, `W[t-7]`, `W[t-15]` and
`W[t-16]` stand at 1, 6, 14 and 15. -/
def extend : Nat → List Word → List Word
  | 0, ws => ws
  | k + 1, ws =>
    extend k
      ((ws.getD 15 0 + smallSigma0 (ws.getD 14 0) + ws.getD 6 0 + smallSigma1 (ws.getD 1 0)) :: ws)

/-- The 64 words of the schedule of a block of 16 words, `W[0]` first. -/
def schedule (block : List Word) : List Word := (extend 48 block.reverse).reverse

/-- One round (R268) with the pair `K[t], W[t]`. -/
def shaRound (x : Words) (kw : Word × Word) : Words :=
  let t1 := x.h + bigSigma1 x.e + choose x.e x.f x.g + kw.1 + kw.2
  let t2 := bigSigma0 x.a + majority x.a x.b x.c
  ⟨t1 + t2, x.a, x.b, x.c, x.d + t1, x.e, x.f, x.g⟩

/-- Compression of one block of 16 words (R268). -/
def compress (hs : Words) (block : List Word) : Words :=
  let r := (roundConstants.zip (schedule block)).foldl shaRound hs
  ⟨hs.a + r.a, hs.b + r.b, hs.c + r.c, hs.d + r.d, hs.e + r.e, hs.f + r.f, hs.g + r.g, hs.h + r.h⟩

/-- `v` as `len` bytes, most significant first. -/
def beBytes (v len : Nat) : List Byte := reverseBytes (leBytes v len)

/-- R266: 0x80, the least number of zero bytes that makes the length a multiple of 64, and the bit length as eight bytes. -/
def pad (msg : List Byte) : List Byte :=
  msg ++ [0x80] ++ List.replicate ((119 - msg.length % 64) % 64) 0 ++ beBytes (8 * msg.length) 8

/-- The big-endian words of a byte string whose length is a multiple of 4. -/
def toWords : List Byte → List Word
  | b0 :: b1 :: b2 :: b3 :: rest => (b0 ++ b1 ++ b2 ++ b3 : BitVec 32) :: toWords rest
  | _ => []

/-- The compressions of `k` blocks of 16 words in order. -/
def blocks : Nat → Words → List Word → Words
  | 0, hs, _ => hs
  | k + 1, hs, ws => blocks k (compress hs (ws.take 16)) (ws.drop 16)

/-- The four bytes of a word, most significant first. -/
def wordBytes (w : Word) : List Byte :=
  [w.extractLsb' 24 8, w.extractLsb' 16 8, w.extractLsb' 8 8, w.extractLsb' 0 8]

/-- The digest `H0 ‖ H1 ‖ ... ‖ H7` (R268). -/
def digest (x : Words) : Digest :=
  ⟨(wordBytes x.a ++ wordBytes x.b ++ wordBytes x.c ++ wordBytes x.d ++
    wordBytes x.e ++ wordBytes x.f ++ wordBytes x.g ++ wordBytes x.h).toArray, rfl⟩

end Sys2Proof.Machine.Sha256

namespace Sys2Proof.Machine

/-- R265, `SHA256(msg)`: the hash on the hash port (R5, R185). -/
def sha256 : HashPort := fun msg =>
  let m := Sha256.pad msg
  Sha256.digest (Sha256.blocks (m.length / 64) Sha256.initial (Sha256.toWords m))

end Sys2Proof.Machine
end

