-- ==== Sys2Proof/Machine/Mgf1.lean ====
section
/-! DEFINITION. The mask generator (R186 to R189) over an arbitrary hash port, and the meaning of MGF1 (R190). -/

namespace Sys2Proof.Machine

/-- `BE32(i)` (R9). -/
def be32 (i : Nat) : List Byte :=
  [BitVec.ofNat 8 (i / 2 ^ 24), BitVec.ofNat 8 (i / 2 ^ 16), BitVec.ofNat 8 (i / 2 ^ 8), BitVec.ofNat 8 i]

/-- The inputs of the `L div 32 + 1` hash calls of R186, R187, in order. -/
def mgf1Inputs (seed : List Byte) (len : Nat) : List (List Byte) :=
  (List.range (len / 32 + 1)).map fun i => seed ++ be32 i

/-- R186, `MGF1(seed, L)` over the hash port `hash`; R188: fails for `L` of `2^32 * 32` or more. -/
def mgf1 (hash : HashPort) (seed : List Byte) (len : Nat) : Except Cause (List Byte) :=
  if len < 2 ^ 32 * 32 then
    .ok (((mgf1Inputs seed len).flatMap fun x => (hash x).toList).take len)
  else .error .maskTooLong

/-- What MGF1 requires (R190): the mask fits the buffer. -/
def State.maskFault (s : State) : Option Cause :=
  if s.params.maskCap < s.mlen.toNat then some .bufferCapacity else none

/-- The effect of MGF1 (R190): all of MASK is written, the bytes beyond the mask with zeros. -/
def fillMask (hash : HashPort) (s : State) : State :=
  match mgf1 hash s.seedBytes s.mlen.toNat with
  | .ok m => complete { s with mask := Memory.ofBytes m }
  | .error c => raiseFault c s

/-- `MGF1` over an arbitrary hash port. -/
def execMgf1On (hash : HashPort) (s : State) : Host.Outcome State Fault Refusal :=
  guarded s.maskFault (fillMask hash) s

/-- R190, `MGF1`. -/
def execMgf1 (s : State) : Host.Outcome State Fault Refusal := execMgf1On sha256 s

end Sys2Proof.Machine
end

