-- ==== Sys2Proof/Machine/Pss.lean ====
section
/-! DEFINITION. The PSS padding validator (R200 to R215, R217) over an arbitrary hash port, and the meaning of PSSCHK
(R216). -/

namespace Sys2Proof.Machine

/-- R206: byte-wise exclusive or, then the whole first byte forced to 0. -/
def unmask (maskedDB dbMask : List Byte) : List Byte := (List.zipWith (· ^^^ ·) maskedDB dbMask).set 0 0

/-- R212: `M' = 0x00×8 ‖ messageHash ‖ salt`. -/
def mPrime (mHash salt : List Byte) : List Byte := List.replicate 8 0 ++ mHash ++ salt

/-- R202: the last byte of EM is 0xBC. -/
def trailerOk (p : Params) (em : List Byte) : Bool := em.getD (p.keyLen - 1) 0 == 0xBC

/-- R204: the top `bitsToMask` bits of maskedDB[0] are zero. -/
def maskedBitsOk (p : Params) (maskedDB : List Byte) : Bool :=
  (maskedDB.getD 0 0).toNat / 2 ^ (8 - p.bitsToMask) == 0

/-- R207: `psLen` zero bytes, then 0x01. -/
def paddingOk (p : Params) (db : List Byte) : Bool :=
  ((List.range p.psLen).all fun i => db.getD i 0 == 0) && db.getD p.psLen 0 == 0x01

/-- R215, `PssCheck(mHash, EM)`: the verdict, every test evaluated. The checked functions `slice` and `MGF1` do not fail on
a block that can be built (R173, R188). -/
def pssCheck (hash : HashPort) (p : Params) (mHash em : List Byte) : Except Cause Bool :=
  if p.emLen < hLen + sLen + 2 then .ok false
  else do
    let offset := p.pssOffset
    let maskedDB ← slice em offset (offset + p.dbLen) p.dbLen
    let h ← slice em (offset + p.dbLen) (p.keyLen - 1) hLen
    let dbMask ← mgf1 hash h p.dbLen
    let db := unmask maskedDB dbMask
    let salt ← slice db (p.dbLen - sLen) p.dbLen sLen
    let h' := (hash (mPrime mHash salt)).toList
    .ok (trailerOk p em && maskedBitsOk p maskedDB && paddingOk p db && h == h')

/-- `PSSCHK` on the buffers MHASH and EM: the verdict goes to RESULT. -/
def checkPss (hash : HashPort) (s : State) : State :=
  finishCheck (pssCheck hash s.params s.mhashBytes s.emBytes) s

/-- `PSSCHK` over an arbitrary hash port. -/
def execPsschkOn (hash : HashPort) (s : State) : Host.Outcome State Fault Refusal := .next (checkPss hash s)

/-- R216, `PSSCHK`. -/
def execPsschk (s : State) : Host.Outcome State Fault Refusal := execPsschkOn sha256 s

end Sys2Proof.Machine
end

