-- ==== Sys2Proof/Machine/Verify.lean ====
section
/-! DEFINITION. NOP (R250) and the two complete verifications (R251, R252). -/

namespace Sys2Proof.Machine

/-- R250, `NOP`: reads and writes no register and no buffer. -/
def execNop (s : State) : Host.Outcome State Fault Refusal := .next (complete s)

/-- `VERIFYPSS` over an arbitrary hash port: exponentiate, serialise A into EM, check. -/
def execVerifypssOn (hash : HashPort) (s : State) : Host.Outcome State Fault Refusal :=
  guarded s.exponentFault (fun s => checkPss hash (serialize .A (exponentiate s))) s

/-- R251, `VERIFYPSS`. -/
def execVerifypss (s : State) : Host.Outcome State Fault Refusal := execVerifypssOn sha256 s

/-- R252, `VERIFYPKCS`. -/
def execVerifypkcs (s : State) : Host.Outcome State Fault Refusal :=
  guarded s.exponentFault (fun s => checkPkcs (serialize .A (exponentiate s))) s

end Sys2Proof.Machine
end

