-- ==== Sys2Proof/Machine/Dispatch.lean ====
section
/-! DEFINITION. The dispatch: one arm for each constructor of Instr. -/

namespace Sys2Proof.Machine

def exec (i : Instr) (s : State) : Host.Outcome State Fault Refusal :=
  match i with
  | .nop => Sys2Proof.Machine.execNop s
  | .modset => Sys2Proof.Machine.execModset s
  | .mul ra rb => Sys2Proof.Machine.execMul ra rb s
  | .redc rd => Sys2Proof.Machine.execRedc rd s
  | .mmul rd ra rb => Sys2Proof.Machine.execMmul rd ra rb s
  | .modmul rd ra rb => Sys2Proof.Machine.execModmul rd ra rb s
  | .modexp => Sys2Proof.Machine.execModexp s
  | .serbe ra => Sys2Proof.Machine.execSerbe ra s
  | .mgf1 => Sys2Proof.Machine.execMgf1 s
  | .psschk => Sys2Proof.Machine.execPsschk s
  | .pkcschk => Sys2Proof.Machine.execPkcschk s
  | .verifypss => Sys2Proof.Machine.execVerifypss s
  | .verifypkcs => Sys2Proof.Machine.execVerifypkcs s

end Sys2Proof.Machine
end

