-- ==== Sys2Proof/Machine/HostPort.lean ====
section
/-! DEFINITION. The host interface: the host operations of R60 on the three index spaces of R61, allowed or refused by the
table of R64. Every operation is a total function to the new state and the reply; a refused one leaves the state
unchanged (R68). -/

namespace Sys2Proof.Machine

/-- An element of the limb space (R61): a register of R21, or T at index 8. -/
inductive BigReg where
  | reg (r : Reg)
  | wide
  deriving DecidableEq, Repr

/-- The register an index of the limb space names: 7 and 9 and above name none (R66). -/
def BigReg.ofIndex (k : Nat) : Option BigReg :=
  if k = 8 then some .wide
  else if k < 7 then (Reg.ofIndex (BitVec.ofNat 4 k)).map .reg
  else none

/-- The integer a big register holds (R22, R27). -/
def State.big (s : State) : BigReg → Nat
  | .reg r => s.bn r
  | .wide => s.regT

/-- `BN[r] <- v` or `T <- v`. -/
def State.setBig (s : State) (b : BigReg) (v : Nat) : State :=
  match b with
  | .reg r => s.setBn r v
  | .wide => { s with regT := v }

/-- How many limbs a big register has (R61). -/
def limbCount (p : Params) : BigReg → Nat
  | .reg _ => p.numLimbs
  | .wide => 2 * p.numLimbs

/-- Which big registers the host may write while the core is idle (R64, R67): S, A, B, C and T, and N until MODSET has
accepted it. -/
def State.hostMayWriteBig (s : State) : BigReg → Bool
  | .reg .N => !s.status.modValid
  | .reg .RR => false
  | .reg .ONE => false
  | .reg .S => true
  | .reg .A => true
  | .reg .B => true
  | .reg .C => true
  | .wide => true

/-- The four byte buffers (R42). -/
inductive Buf where
  | MHASH | EM | SEED | MASK
  deriving DecidableEq, Repr

/-- The buffer an id names (R42, R66). -/
def Buf.ofId : Nat → Option Buf
  | 0 => some .MHASH
  | 1 => some .EM
  | 2 => some .SEED
  | 3 => some .MASK
  | _ => none

/-- The contents of a buffer. -/
def State.buf (s : State) : Buf → Memory
  | .MHASH => s.mhash
  | .EM => s.em
  | .SEED => s.seed
  | .MASK => s.mask

/-- A buffer with new contents. -/
def State.setBuf (s : State) (b : Buf) (m : Memory) : State :=
  match b with
  | .MHASH => { s with mhash := m }
  | .EM => { s with em := m }
  | .SEED => { s with seed := m }
  | .MASK => { s with mask := m }

/-- How many bytes a buffer has (R42). -/
def bufLen (p : Params) : Buf → Nat
  | .MHASH => 32
  | .EM => p.keyLen
  | .SEED => 32
  | .MASK => p.maskCap

/-- Which buffers the host may write: not MASK (R64, R67). -/
def Buf.hostMayWrite : Buf → Bool
  | .MHASH | .EM | .SEED => true
  | .MASK => false

/-- What a control register reads (R32, R41); 7 and 13 and above name none. -/
def State.csrWord (s : State) : Nat → Option Word
  | 0 => some 0
  | 1 => some (statusWord s.status)
  | 2 => some s.cmd
  | 3 => some s.exp
  | 4 => some (resultWord s.verified)
  | 5 => some (faultCodeWord s.faultCode)
  | 6 => some s.mlen
  | 8 => some (BitVec.ofNat 32 s.params.modBits)
  | 9 => some (BitVec.ofNat 32 s.params.keyLen)
  | 10 => some (BitVec.ofNat 32 s.params.limbBits)
  | 11 => some (BitVec.ofNat 32 s.params.numLimbs)
  | 12 => some (BitVec.ofNat 32 s.params.maskCap)
  | _ => none

/-- `CsrRead(k)`: while BUSY only STATUS (R64). -/
def csrRead (k : Nat) (s : State) : State × Reply :=
  if s.status.busy && k != 1 then (s, .refused)
  else
    match s.csrWord k with
    | some v => (s, .word v)
    | none => (s, .refused)

/-- `CsrWrite(k, v)`: CTRL at any time (R33); CMD, EXP and MLEN while idle (R34, R37, R40); no other register (R67). -/
def csrWrite (k : Nat) (v : Word) (s : State) : State × Reply :=
  match k with
  | 0 => (if v.getLsbD 0 then performReset s else s, .ok)
  | 2 => if s.status.idle then (acceptCommand v s, .ok) else (s, .refused)
  | 3 => if s.status.idle then ({ s with exp := v }, .ok) else (s, .refused)
  | 6 => if s.status.idle then ({ s with mlen := v }, .ok) else (s, .refused)
  | _ => (s, .refused)

/-- `LimbRead(r, i)`. -/
def limbRead (r i : Nat) (s : State) : State × Reply :=
  match BigReg.ofIndex r with
  | none => (s, .refused)
  | some b =>
    if s.status.busy || decide (limbCount s.params b ≤ i) then (s, .refused)
    else (s, .limb (limb s.params.limbBits (s.big b) i))

/-- `LimbWrite(r, i, v)`; a `v` that is no limb cannot be expressed (U15) and is refused (log entry 9). -/
def limbWrite (r i v : Nat) (s : State) : State × Reply :=
  match BigReg.ofIndex r with
  | none => (s, .refused)
  | some b =>
    if s.status.idle && s.hostMayWriteBig b && decide (i < limbCount s.params b) && decide (v < 2 ^ s.params.limbBits) then
      (s.setBig b (setLimb s.params.limbBits (s.big b) i v), .ok)
    else (s, .refused)

/-- `ByteRead(b, i)`. -/
def byteRead (b i : Nat) (s : State) : State × Reply :=
  match Buf.ofId b with
  | none => (s, .refused)
  | some k =>
    if s.status.busy || decide (bufLen s.params k ≤ i) then (s, .refused)
    else (s, .byte ((s.buf k).read i))

/-- `ByteWrite(b, i, v)`. -/
def byteWrite (b i : Nat) (v : Byte) (s : State) : State × Reply :=
  match Buf.ofId b with
  | none => (s, .refused)
  | some k =>
    if s.status.idle && k.hostMayWrite && decide (i < bufLen s.params k) then
      (s.setBuf k ((s.buf k).write i v), .ok)
    else (s, .refused)

/-- A host operation, or the hardware reset input (R310). -/
def hostAccess (op : HostOp) (s : State) : State × Reply :=
  match op with
  | .csrRead k => csrRead k s
  | .csrWrite k v => csrWrite k v s
  | .limbRead r i => limbRead r i s
  | .limbWrite r i v => limbWrite r i v s
  | .byteRead b i => byteRead b i s
  | .byteWrite b i v => byteWrite b i v s
  | .hardReset => (performReset s, .ok)

/-- The host's turn: the operation takes place and its reply is recorded. -/
def hostTurn (op : HostOp) (s : State) : State :=
  { (hostAccess op s).1 with replies := s.replies ++ [(hostAccess op s).2] }

end Sys2Proof.Machine
end

