-- ==== Sys2Proof/Machine/Step.lean ====
section
/-! DEFINITION. One step: the next event of the total order of R73. -/

namespace Sys2Proof.Machine

/-- The core's turn: a command that has been accepted executes as one atomic step (R74), and an illegal word faults
(R95, R276). With no command accepted the core is idle and holds its state (R305, R311). -/
def coreTurn (s : State) : Host.Outcome State Fault Refusal :=
  if s.status.busy then
    match decode s.cmd with
    | .ok i => Sys2Proof.Machine.exec i s
    | .error _ => .next (raiseFault .illegalCommand s)
  else .next s

/-- One step: the first pending event, a host operation or the core's turn; the core's turn when none is pending
(log entry 6). -/
def step (s : State) : Host.Outcome State Fault Refusal :=
  match s.events with
  | [] => coreTurn s
  | .core :: rest => coreTurn { s with events := rest }
  | .host op :: rest => .next (hostTurn op { s with events := rest })

/-- `s` with the command word of `w` accepted and the core's turn next, so that `step` runs exactly that command. It stands
for the host's accepted `CsrWrite(2, word)` (R34), which is how every command starts (log entry 7). -/
def State.withFetchWord (s : State) (nbits w : Nat) : State :=
  { acceptCommand (tableWord nbits w) s with events := .core :: s.events }

end Sys2Proof.Machine
end

