-- ==== Sys2Proof/Machine/Asm.lean ====
section
/-! DEFINITION. The assembler's names (R110), the pseudo-instructions (R111), and the host directives in which programs are
written (R112): a program is a list of directives, and what it does is the list of events they stand for. -/

namespace Sys2Proof.Machine

/-- The assembler's register names (R21, R110). -/
def regName : Reg → String
  | .N => "N"
  | .RR => "RR"
  | .ONE => "ONE"
  | .S => "S"
  | .A => "A"
  | .B => "B"
  | .C => "C"

/-- The mnemonic of a command (R94). -/
def mnemonic : Instr → String
  | .nop => "NOP"
  | .modset => "MODSET"
  | .mul _ _ => "MUL"
  | .redc _ => "REDC"
  | .mmul _ _ _ => "MMUL"
  | .modmul _ _ _ => "MODMUL"
  | .modexp => "MODEXP"
  | .serbe _ => "SERBE"
  | .mgf1 => "MGF1"
  | .psschk => "PSSCHK"
  | .pkcschk => "PKCSCHK"
  | .verifypss => "VERIFYPSS"
  | .verifypkcs => "VERIFYPKCS"

/-- The operands of a command in the assembler's order `rd, ra, rb` (R110). -/
def operands : Instr → List Reg
  | .mul ra rb => [ra, rb]
  | .redc rd => [rd]
  | .mmul rd ra rb => [rd, ra, rb]
  | .modmul rd ra rb => [rd, ra, rb]
  | .serbe ra => [ra]
  | .nop | .modset | .modexp | .mgf1 | .psschk | .pkcschk | .verifypss | .verifypkcs => []

/-- A line of assembly (R110). -/
def asmLine (i : Instr) : String :=
  match operands i with
  | [] => mnemonic i
  | rs => mnemonic i ++ " " ++ ", ".intercalate (rs.map regName)

/-- R111, `TOMONT rd, ra`: enter Montgomery form. -/
def tomont (rd ra : Reg) : Instr := .mmul rd ra .RR
/-- R111, `FROMMONT rd, ra`: leave Montgomery form. -/
def frommont (rd ra : Reg) : Instr := .mmul rd ra .ONE
/-- R111, `MSQR rd, ra`: the Montgomery square. -/
def msqr (rd ra : Reg) : Instr := .mmul rd ra ra
/-- R111, `MODSQR rd, ra`: the square modulo N. -/
def modsqr (rd ra : Reg) : Instr := .modmul rd ra ra

/-- The lines of a program (R112). Registers, buffers and control registers are given by their numbers. -/
inductive Directive where
  /-- `.reset` -/
  | reset
  /-- `.csr NAME, v` -/
  | csr (k : Nat) (v : Word)
  /-- `.bn REG, v` -/
  | bn (r : Nat) (v : Nat)
  /-- `.bytes BUF, hex` -/
  | bytes (b : Nat) (bs : List Byte)
  /-- A command line: the CMD write, then STATUS polled; the core has its turn between. -/
  | command (i : Instr)
  /-- `.expect ...` stands for nothing. -/
  | expect
  deriving DecidableEq, Repr

/-- The events a line stands for (R112). -/
def Directive.toEvents (p : Params) : Directive → List Event
  | .reset => [.host (.csrWrite 0 1)]
  | .csr k v => [.host (.csrWrite k v)]
  | .bn r v =>
    (List.range (if r = 8 then 2 * p.numLimbs else p.numLimbs)).map fun i =>
      .host (.limbWrite r i (limb p.limbBits v i))
  | .bytes b bs => bs.zipIdx.map fun x => .host (.byteWrite b x.2 x.1)
  | .command i => [.host (.csrWrite 2 (encode i)), .core, .host (.csrRead 1)]
  | .expect => []

/-- The events of a program (R112). -/
def programEvents (p : Params) (prog : List Directive) : List Event := prog.flatMap (Directive.toEvents p)

end Sys2Proof.Machine
end

