-- ==== Sys2Proof/Machine/LimbReference.lean ====
section
/-! DEFINITION. The limb-level reference sequences of the multiplier (R121, R125, R130): "a reference, not an obligation".
No command's meaning calls them; that they compute the functions the commands use is stated, not assumed. -/

namespace Sys2Proof.Machine

/-- R121, `MAC(a, b, c, d) = (hi, lo)` for limbs of `w` bits. -/
def mac (w a b c d : Nat) : Nat × Nat := ((a * b + c + d) / 2 ^ w, (a * b + c + d) % 2 ^ w)

/-- The `n` lowest limbs of an integer, limb 0 first (R22). -/
def limbs (w n v : Nat) : List Nat := (List.range n).map (limb w v)

/-- The integer of a list of limbs, limb 0 first (R22). -/
def ofLimbs (w : Nat) : List Nat → Nat
  | [] => 0
  | x :: xs => x + 2 ^ w * ofLimbs w xs

/-- One pass of MACs along the limbs `as`: `(c, t[j]) <- MAC(a[j], b, t[j], c)`. Answers the new limbs and the carry. -/
def macRow (w b : Nat) : List Nat → List Nat → Nat → List Nat × Nat
  | a :: as, t :: ts, c =>
    let r := mac w a b t c
    let rest := macRow w b as ts r.1
    (r.2 :: rest.1, rest.2)
  | _, _, c => ([], c)

/-- R125, schoolbook multiplication. `ts` is the window `t[i .. i+n-1]` of the result; its first limb is final after the
pass for `b[i]`. -/
def mulLimbs (w : Nat) (as : List Nat) : List Nat → List Nat → List Nat
  | [], ts => ts
  | b :: bs, ts =>
    let r := macRow w b as ts 0
    match r.1 with
    | [] => []
    | t0 :: rest => t0 :: mulLimbs w as bs (rest ++ [r.2])

/-- The working limbs of R130 between two passes: `t[0 .. n-1]`, and `t[n]`. -/
structure MontWork where
  low : List Nat
  top : Nat
  deriving DecidableEq, Repr

/-- One iteration of R130 for the limb `b` of the second factor: the multiply pass, then the reduce pass, whose first
limb is 0 and is dropped. -/
def montIteration (w np0 : Nat) (as ns : List Nat) (t : MontWork) (b : Nat) : MontWork :=
  let mulPass := macRow w b as t.low 0
  let s := t.top + mulPass.2
  let tn := s % 2 ^ w
  let tn1 := s / 2 ^ w
  let m := mulPass.1.headD 0 * np0 % 2 ^ w
  let redPass := macRow w m ns mulPass.1 0
  let s' := tn + redPass.2
  { low := redPass.1.tail ++ [s' % 2 ^ w], top := tn1 + s' / 2 ^ w }

/-- R130, the word-serial Montgomery product over `n` limbs. -/
def montMulLimbs (p : Params) (np0 n a b : Nat) : Nat :=
  let w := p.limbBits
  let k := p.numLimbs
  let t := (limbs w k b).foldl (montIteration w np0 (limbs w k a) (limbs w k n)) ⟨List.replicate k 0, 0⟩
  subtractOnce n (ofLimbs w t.low + 2 ^ (w * k) * t.top)

end Sys2Proof.Machine
end

