-- ==== Sys2Proof/Machine/Work.lean ====
section
/-! DEFINITION. The work counts of R319: how many times an inner operation is evaluated, functional facts and not time
(R318, R320). No step reads them. -/

namespace Sys2Proof.Machine

/-- A row of the table of R319. `none`: the spec does not fix the count. -/
structure Work where
  montProducts : Option Nat
  hashCalls    : Nat
  limbMults    : Option Nat
  deriving DecidableEq, Repr

/-- The Montgomery products of the ladder of R162. -/
def ladderProducts (e : Word) : Nat := if e = 3 then 3 else 18

/-- The limb multiplications of one Montgomery product as R130 writes it. -/
def limbMultsPerProduct (p : Params) : Nat := 2 * p.numLimbs * p.numLimbs + p.numLimbs

/-- The hash calls of PSSCHK: the mask's, and one for H'. -/
def pssHashCalls (p : Params) : Nat := if p.emLen < 66 then 0 else p.dbLen / 32 + 2

/-- R319, the work of a command that completes. -/
def work (i : Instr) (s : State) : Work :=
  let n := s.params.numLimbs
  let ladder := ladderProducts s.exp
  match i with
  | .nop => ⟨some 0, 0, some 0⟩
  | .modset => ⟨none, 0, none⟩
  | .mul _ _ => ⟨some 0, 0, some (n * n)⟩
  | .redc _ => ⟨some 0, 0, some (n * n + n)⟩
  | .mmul _ _ _ => ⟨some 1, 0, some (limbMultsPerProduct s.params)⟩
  | .modmul _ _ _ => ⟨some 2, 0, some (2 * limbMultsPerProduct s.params)⟩
  | .modexp => ⟨some ladder, 0, some (ladder * limbMultsPerProduct s.params)⟩
  | .serbe _ => ⟨some 0, 0, some 0⟩
  | .mgf1 => ⟨some 0, s.mlen.toNat / 32 + 1, some 0⟩
  | .psschk => ⟨some 0, pssHashCalls s.params, some 0⟩
  | .pkcschk => ⟨some 0, 0, some 0⟩
  | .verifypss => ⟨some ladder, pssHashCalls s.params, some (ladder * limbMultsPerProduct s.params)⟩
  | .verifypkcs => ⟨some ladder, 0, some (ladder * limbMultsPerProduct s.params)⟩

end Sys2Proof.Machine
end

