-- ==== Sys2Proof/Safety.lean ====
section
/-! DEFINITION. What counts as a sound state of the block (R48 and the bounds of R22, R27, R31, R42), and the plain
readings of the two verdicts byte by byte (R202 to R213, R237), in which the claims are stated. -/

namespace Sys2Proof.Machine

/-- R123, R124: `n` is a modulus of the block that MODSET accepts. -/
structure ValidModulus (p : Params) (n : Nat) : Prop where
  low  : 2 ^ (p.modBits - 1) ≤ n
  high : n < 2 ^ p.modBits
  odd  : n % 2 = 1

/-- R123: `x` is NPrime0(n), the limb with `x * n mod 2^W = 2^W - 1`. -/
structure IsNPrime0 (p : Params) (n x : Nat) : Prop where
  bound : x < 2 ^ p.limbBits
  minus : x * n % 2 ^ p.limbBits = 2 ^ p.limbBits - 1

/-- R123: `x` is Rinv(n), the value below `n` with `R * x mod n = 1`. -/
structure IsRInv (p : Params) (n x : Nat) : Prop where
  bound : x < n
  inv   : p.radix * x % n = 1

/-- The value a big-number write leaves in `rd`, and everything else but T, the count of free values and STATUS as it
was (R27: T unspecified, below `R^2`). -/
def State.productEffect (s : State) (rd : Reg) (v tv : Nat) : State :=
  { s.setBn rd v with
    regT := tv
    freeCount := s.freeCount + 1
    status := { s.status with busy := false, done := true } }

/-- The invariant of the block: the bounds of every register and buffer, the context of R48 (a), (b), the flags of R31
and R48 (d), and the fault record of R39. -/
structure State.Inv (s : State) : Prop where
  legal       : s.params.Legal
  bnBound     : ∀ r, s.bn r < s.params.radix
  wideBound   : s.regT < s.params.radix ^ 2
  np0Bound    : s.np0 < 2 ^ s.params.limbBits
  modulus     : s.status.modValid = true → ValidModulus s.params s.regN
  context     : s.status.modValid = true → s.regRR = s.params.radix ^ 2 % s.regN ∧ IsNPrime0 s.params s.regN s.np0
  noContext   : s.status.modValid = false → s.regRR = 0 ∧ s.np0 = 0
  faultCause  : s.status.fault = true ↔ s.faultCode.cause ≠ none
  faultOpcode : s.status.fault = true → s.faultCode.opcode = s.cmd.opcode
  faultIdle   : s.status.fault = true → s.status.busy = false ∧ s.status.done = false
  oneOfTwo    : s.status.busy = true → s.status.done = false
  resDone     : s.status.resValid = true → s.status.done = true
  reachable   : s.faultCode.cause ≠ some .maskTooLong ∧ s.faultCode.cause ≠ some .sliceBounds
  mhashOk     : s.mhash.wf = true ∧ s.mhash.inBounds 32 = true
  emOk        : s.em.wf = true ∧ s.em.inBounds s.params.keyLen = true
  seedOk      : s.seed.wf = true ∧ s.seed.inBounds 32 = true
  maskOk      : s.mask.wf = true ∧ s.mask.inBounds s.params.maskCap = true

/-- R237: the one EM that the comparator accepts for the hash `h`, most significant byte first. -/
def pkcsString (p : Params) (h : List Byte) : List Byte :=
  [0x00, 0x01] ++ List.replicate (p.keyLen - 54) 0xFF ++ [0x00] ++
    [0x30, 0x31, 0x30, 0x0D, 0x06, 0x09, 0x60, 0x86, 0x48, 0x01, 0x65, 0x03, 0x04, 0x02, 0x01, 0x05, 0x00, 0x04, 0x20] ++ h

/-- R203: `H[i] = EM[KEY_LEN - 33 + i]`. -/
def pssHash (p : Params) (em : List Byte) : List Byte := (List.range 32).map fun i => em.getD (p.keyLen - 33 + i) 0

/-- R205, R186: byte `k` of the mask, `Hash(H ‖ BE32(k div 32))[k mod 32]`. -/
def pssMaskByte (hash : HashPort) (p : Params) (em : List Byte) (k : Nat) : Byte :=
  (hash (pssHash p em ++ be32 (k / 32))).toList.getD (k % 32) 0

/-- R203, R206: byte `i` of DB, the first byte forced to 0. -/
def pssDbByte (hash : HashPort) (p : Params) (em : List Byte) (i : Nat) : Byte :=
  if i = 0 then 0 else em.getD (p.pssOffset + i) 0 ^^^ pssMaskByte hash p em i

/-- R210: the salt, the last 32 bytes of DB. -/
def pssSalt (hash : HashPort) (p : Params) (em : List Byte) : List Byte :=
  (List.range 32).map fun i => pssDbByte hash p em (p.psLen + 1 + i)

/-- R201 to R213 byte by byte: what the PSS validator accepts. -/
structure PssAccepts (hash : HashPort) (p : Params) (mHash em : List Byte) : Prop where
  /-- Step 1 (R201). -/
  size      : 66 ≤ p.emLen
  /-- Step 2 (R202). -/
  trailer   : em.getD (p.keyLen - 1) 0 = 0xBC
  /-- Step 5 (R204). -/
  topBits   : (em.getD p.pssOffset 0).toNat / 2 ^ (8 - p.bitsToMask) = 0
  /-- Step 8 (R207), the zeros. -/
  zeros     : ∀ i, i < p.psLen → pssDbByte hash p em i = 0
  /-- Step 8 (R207), the separator. -/
  separator : pssDbByte hash p em p.psLen = 0x01
  /-- Steps 10 and 11 (R212, R213). -/
  sameHash  : (hash (List.replicate 8 0 ++ mHash ++ pssSalt hash p em)).toList = pssHash p em

end Sys2Proof.Machine
end

