-- ==== Sys2Proof/Certificates/Slice0/Obligations.lean ====
section
/-! DEFINITION. The statements for the provers. Each docstring names the rule of spec/ it formalises. Statements about
reachable states take `State.Inv` as a premise, which `ResetStateIsSound` and `EveryStepKeepsTheInvariant` state on
their own. T after a modular product is a free value: every statement holds for all its values (log entry 5). -/

open Sys2Proof Sys2Proof.Machine

/-! ### Encoding -/

/-- R94, R95, R96: decoding the word of a legal command gives the command back, with every operand. -/
def Obligations.DecodeOfEncode : Prop :=
  ∀ i : Instr, i.wellFormed = true → decode (encode i) = .ok i

/-- R95, R97: a word has at most one meaning and no tolerated bit: what decodes is exactly the word of a legal command. -/
def Obligations.EncodeOfDecode : Prop :=
  ∀ (w : Word) (i : Instr), decode w = .ok i → encode i = w ∧ i.wellFormed = true

/-- R95, the decoding table: which words are commands. Fields that a format does not use are 0, a destination is 4 to 6,
a source is 0 to 6, bits 31:20 are 0; every other word is illegal. -/
def Obligations.WhichWordsAreCommands : Prop :=
  ∀ w : Word,
    (∃ i, decode w = .ok i) ↔
      w.extractLsb' 20 12 = 0 ∧
      ∃ row ∈ opcodeTable, row.opcode = w.extractLsb' 0 8 ∧
        (if row.format = .D ∨ row.format = .DAB then 4 ≤ (w.extractLsb' 8 4).toNat ∧ (w.extractLsb' 8 4).toNat ≤ 6
          else (w.extractLsb' 8 4).toNat = 0) ∧
        (if row.format = .A ∨ row.format = .AB ∨ row.format = .DAB then (w.extractLsb' 12 4).toNat ≤ 6
          else (w.extractLsb' 12 4).toNat = 0) ∧
        (if row.format = .AB ∨ row.format = .DAB then (w.extractLsb' 16 4).toNat ≤ 6
          else (w.extractLsb' 16 4).toNat = 0)

/-- R94: no word matches two rows of the opcode table. -/
def Obligations.OpcodeRowsDisjoint : Prop :=
  ∀ (w : Word), ∀ r₁ ∈ opcodeTable, ∀ r₂ ∈ opcodeTable,
    w &&& r₁.mask = r₁.pattern → w &&& r₂.mask = r₂.pattern → r₁ = r₂

/-- R110, R111: the words of the assembler's examples, written out, decode to their commands. -/
def Obligations.ExampleWordsDecode : Prop :=
  decode 0b00000000000000010100010100010010#32 = .ok (.mmul .B .A .RR) ∧
  decode 0b00000000000001010100000000010000#32 = .ok (.mul .A .B) ∧
  decode 0b00000000000000000000011000010001#32 = .ok (.redc .C) ∧
  decode 0b00000000000000000100000000110000#32 = .ok (.serbe .A) ∧
  decode 0b00000000000000000000000000100000#32 = .ok .modexp

/-! ### The step -/

/-- R34, R74: when the core has its turn and a command has been accepted, the step is the decoded command's meaning, and
the event is taken off. The state that `withFetchWord` builds is such a state. R60, R73: when a host operation comes first,
the step is that operation: it takes place, its event is taken off and its reply is recorded after the earlier ones. The
events, the replies and `withFetchWord` are the model's own (log entries 6, 7 and 8). -/
def Obligations.StepRunsDecodedCommand : Prop :=
  (∀ (s : State) (i : Instr), s.status.busy = true → decode s.cmd = .ok i → s.events = [] → step s = exec i s) ∧
  (∀ (s : State) (i : Instr) (rest : List Event), s.status.busy = true → decode s.cmd = .ok i →
    s.events = .core :: rest → step s = exec i { s with events := rest }) ∧
  (∀ (s : State) (w : Nat) (i : Instr), w < 2 ^ 32 → decode (BitVec.ofNat 32 w) = .ok i →
    step (s.withFetchWord 32 w) = exec i (acceptCommand (BitVec.ofNat 32 w) s)) ∧
  (∀ (s : State) (op : HostOp) (rest : List Event), s.events = .host op :: rest →
    (hostAccess op { s with events := rest }).1.events = rest ∧
    step s = .next { (hostAccess op { s with events := rest }).1 with
      replies := s.replies ++ [(hostAccess op { s with events := rest }).2] })

/-- R276, R272: an accepted word that is no command faults IllegalCommand; it stays latched and FAULTCODE holds its low
byte. When the core has its turn, and that the turn is taken off the events, is the model's choice (log entry 6). -/
def Obligations.IllegalWordFaults : Prop :=
  ∀ (s : State) (e : Illegal), s.status.busy = true → decode s.cmd = .error e →
    s.events = [] ∨ s.events.head? = some .core →
    step s = .next { s with
      events := s.events.tail
      faultCode := { cause := some .illegalCommand, opcode := s.cmd.extractLsb' 0 8 }
      status := { s.status with fault := true, busy := false, done := false, resValid := false } }

/-- R305, R311: with no command accepted the core's turn leaves the state as it is, but for the events, which are the
model's own (log entries 6 and 20). -/
def Obligations.IdleCoreHoldsItsState : Prop :=
  ∀ s : State, s.status.busy = false →
    (s.events = [] → step s = .next s) ∧
    (∀ rest, s.events = .core :: rest → step s = .next { s with events := rest })

/-- 93_implementation_defined.md, "Nothing is stuck": every step of every state answers a next state. -/
def Obligations.StepAlwaysAnswersNext : Prop :=
  ∀ s : State, ∃ t, step s = .next t

/-- R318: an accepted command completes or faults after finitely many steps: one for each event that is still pending
and one more. The list of events is the model's own (log entry 6). -/
def Obligations.AcceptedCommandTerminates : Prop :=
  ∀ s : State, ∃ t, core.run (s.events.length + 1) s = .next t ∧ t.status.busy = false ∧ t.events = []

/-! ### The invariant -/

/-- R47: the state after reset of every block that can be built is sound. -/
def Obligations.ResetStateIsSound : Prop :=
  (∀ p : Params, p.Legal → (State.resetOf p).Inv) ∧ State.reset.Inv

/-- R48, and the bounds of R22, R27, R31, R42: every step keeps the invariant. -/
def Obligations.EveryStepKeepsTheInvariant : Prop :=
  ∀ s t : State, s.Inv → step s = .next t → t.Inv

/-! ### The commands -/

/-- R250: `NOP` sets DONE; acceptance has cleared RES_VALID; nothing else changes. -/
def Obligations.NopMeaning : Prop :=
  encode .nop = 0 ∧
  (∀ s : State, exec .nop s = .next { s with status := { s.status with busy := false, done := true } }) ∧
  (∀ s : State, exec .nop (acceptCommand 0 s) =
    .next { s with cmd := 0, status := { s.status with busy := false, done := true, resValid := false } })

/-- R124: `MODSET` accepts exactly the odd values of exactly MOD_BITS bits, writes NP0, RR and MOD_VALID, and faults
ModulusParam on every other; repeated, it changes nothing. -/
def Obligations.ModsetMeaning : Prop :=
  encode .modset = 0x00000001 ∧
  (∀ s : State, s.params.Legal → ValidModulus s.params s.regN →
    ∃ x, IsNPrime0 s.params s.regN x ∧
      exec .modset s = .next { s with
        np0 := x
        regRR := s.params.radix ^ 2 % s.regN
        status := { s.status with modValid := true, busy := false, done := true } }) ∧
  (∀ s : State, ¬ ValidModulus s.params s.regN → exec .modset s = .next (raiseFault .modulusParam s)) ∧
  (∀ s : State, s.Inv → s.status.modValid = true →
    exec .modset s = .next { s with status := { s.status with busy := false, done := true } })

/-- R125: `MUL` writes the full product into T, which holds it; the schoolbook sequence computes the same. -/
def Obligations.MulMeaning : Prop :=
  (∀ ra rb : Reg, (encode (.mul ra rb)).toNat = 0x10 + ra.index.toNat * 2 ^ 12 + rb.index.toNat * 2 ^ 16) ∧
  (∀ (s : State) (ra rb : Reg), exec (.mul ra rb) s =
    .next { s with regT := s.bn ra * s.bn rb, status := { s.status with busy := false, done := true } }) ∧
  (∀ (s : State) (ra rb : Reg), s.Inv → s.bn ra * s.bn rb < s.params.radix ^ 2) ∧
  (∀ (p : Params) (a b : Nat), a < p.radix → b < p.radix →
    ofLimbs p.limbBits (mulLimbs p.limbBits (limbs p.limbBits p.numLimbs a) (limbs p.limbBits p.numLimbs b)
      (List.replicate p.numLimbs 0)) = a * b)

/-- R128: `REDC` writes `T * Rinv mod N` into `rd` and leaves T; it faults without a modulus and on `T >= N*R`. -/
def Obligations.RedcMeaning : Prop :=
  (∀ rd : Reg, (encode (.redc rd)).toNat = 0x11 + rd.index.toNat * 2 ^ 8) ∧
  (∀ (s : State) (rd : Reg), rd.isDest = true → s.status.modValid = false →
    exec (.redc rd) s = .next (raiseFault .modulusNotSet s)) ∧
  (∀ (s : State) (rd : Reg), rd.isDest = true → s.status.modValid = true → s.regN * s.params.radix ≤ s.regT →
    exec (.redc rd) s = .next (raiseFault .operandRange s)) ∧
  (∀ (s : State) (rd : Reg), s.Inv → rd.isDest = true → s.status.modValid = true → s.regT < s.regN * s.params.radix →
    ∃ v, v < s.regN ∧ v * s.params.radix % s.regN = s.regT % s.regN ∧
      (∀ ri, IsRInv s.params s.regN ri → v = s.regT * ri % s.regN) ∧
      exec (.redc rd) s = .next { s.setBn rd v with status := { s.status with busy := false, done := true } })

/-- R131: `MMUL` writes the Montgomery product `BN[ra] * BN[rb] * Rinv mod N` into `rd`; T becomes any value below `R^2`
(log entry 5); it faults without a modulus and on an operand that is not below N. -/
def Obligations.MmulMeaning : Prop :=
  (∀ rd ra rb : Reg, (encode (.mmul rd ra rb)).toNat =
    0x12 + rd.index.toNat * 2 ^ 8 + ra.index.toNat * 2 ^ 12 + rb.index.toNat * 2 ^ 16) ∧
  (∀ (s : State) (rd ra rb : Reg), rd.isDest = true → s.status.modValid = false →
    exec (.mmul rd ra rb) s = .next (raiseFault .modulusNotSet s)) ∧
  (∀ (s : State) (rd ra rb : Reg), rd.isDest = true → s.status.modValid = true →
    s.regN ≤ s.bn ra ∨ s.regN ≤ s.bn rb → exec (.mmul rd ra rb) s = .next (raiseFault .operandRange s)) ∧
  (∀ (s : State) (rd ra rb : Reg), s.Inv → rd.isDest = true → s.status.modValid = true →
    s.bn ra < s.regN → s.bn rb < s.regN →
    ∃ v tv, v < s.regN ∧ v * s.params.radix % s.regN = s.bn ra * s.bn rb % s.regN ∧
      (∀ ri, IsRInv s.params s.regN ri → v = s.bn ra * s.bn rb * ri % s.regN) ∧
      tv < s.params.radix ^ 2 ∧ exec (.mmul rd ra rb) s = .next (s.productEffect rd v tv))

/-- R133: `MODMUL` writes `BN[ra] * BN[rb] mod N` into `rd`; T becomes any value (log entry 5); faults as
`MMUL`. -/
def Obligations.ModmulMeaning : Prop :=
  (∀ rd ra rb : Reg, (encode (.modmul rd ra rb)).toNat =
    0x13 + rd.index.toNat * 2 ^ 8 + ra.index.toNat * 2 ^ 12 + rb.index.toNat * 2 ^ 16) ∧
  (∀ (s : State) (rd ra rb : Reg), rd.isDest = true → s.status.modValid = false →
    exec (.modmul rd ra rb) s = .next (raiseFault .modulusNotSet s)) ∧
  (∀ (s : State) (rd ra rb : Reg), rd.isDest = true → s.status.modValid = true →
    s.regN ≤ s.bn ra ∨ s.regN ≤ s.bn rb → exec (.modmul rd ra rb) s = .next (raiseFault .operandRange s)) ∧
  (∀ (s : State) (rd ra rb : Reg), rd.isDest = true → s.status.modValid = true →
    s.bn ra < s.regN → s.bn rb < s.regN →
    ∃ tv, tv < s.params.radix ^ 2 ∧
      exec (.modmul rd ra rb) s = .next (s.productEffect rd (s.bn ra * s.bn rb % s.regN) tv))

/-- R163: `MODEXP` writes `S^EXP mod N` into A for the exponents 3 and 65537, T any value (log entry 5); its
faults, in priority order. -/
def Obligations.ModexpMeaning : Prop :=
  encode .modexp = 0x00000020 ∧
  (∀ s : State, s.exp ≠ 3 → s.exp ≠ 65537 → exec .modexp s = .next (raiseFault .invalidExponent s)) ∧
  (∀ s : State, s.exp = 3 ∨ s.exp = 65537 → s.status.modValid = false →
    exec .modexp s = .next (raiseFault .modulusNotSet s)) ∧
  (∀ s : State, s.exp = 3 ∨ s.exp = 65537 → s.status.modValid = true → s.regN ≤ s.regS →
    exec .modexp s = .next (raiseFault .operandRange s)) ∧
  (∀ s : State, s.exp = 3 ∨ s.exp = 65537 → s.status.modValid = true → s.regS < s.regN →
    ∃ tv, tv < s.params.radix ^ 2 ∧
      exec .modexp s = .next (s.productEffect .A (s.regS ^ s.exp.toNat % s.regN) tv))

/-- R175: `SERBE` writes the register into EM, most significant byte first, unless it needs more than KEY_LEN bytes, which
no value below N does. -/
def Obligations.SerbeMeaning : Prop :=
  (∀ ra : Reg, (encode (.serbe ra)).toNat = 0x30 + ra.index.toNat * 2 ^ 12) ∧
  (∀ (s : State) (ra : Reg), 2 ^ (8 * s.params.keyLen) ≤ s.bn ra →
    exec (.serbe ra) s = .next (raiseFault .operandRange s)) ∧
  (∀ (s : State) (ra : Reg), s.Inv → s.status.modValid = true → s.bn ra < s.regN →
    s.bn ra < 2 ^ (8 * s.params.keyLen)) ∧
  (∀ (s : State) (ra : Reg), s.bn ra < 2 ^ (8 * s.params.keyLen) →
    ∃ m : Memory, m.wf = true ∧
      (∀ j, m.read j =
        if j < s.params.keyLen then BitVec.ofNat 8 (s.bn ra / 2 ^ (8 * (s.params.keyLen - 1 - j))) else 0) ∧
      exec (.serbe ra) s = .next { s with em := m, status := { s.status with busy := false, done := true } })

/-- R190, R186: `MGF1` fills MASK with byte `k mod 32` of `Hash(SEED ‖ BE32(k div 32))` for `k < MLEN` and zeros beyond, for
every hash port, SHA-256 among them; it faults when MLEN exceeds MASK_CAP. -/
def Obligations.Mgf1Meaning : Prop :=
  encode .mgf1 = 0x00000040 ∧
  (∀ s : State, s.params.maskCap < s.mlen.toNat → exec .mgf1 s = .next (raiseFault .bufferCapacity s)) ∧
  (∀ s : State, s.mlen.toNat ≤ s.params.maskCap →
    ∃ m : HashPort → Memory,
      (∀ hash : HashPort, (m hash).wf = true ∧
        (∀ k, (m hash).read k =
          if k < s.mlen.toNat then (hash (s.seedBytes ++ be32 (k / 32))).toList.getD (k % 32) 0 else 0) ∧
        execMgf1On hash s = .next { s with
          mask := m hash
          status := { s.status with busy := false, done := true } }) ∧
      exec .mgf1 s = .next { s with
        mask := m sha256
        status := { s.status with busy := false, done := true } })

/-- R216, R201 to R213: `PSSCHK` never faults; RESULT says whether EM and MHASH pass every step, read byte by byte, for
every hash port, SHA-256 among them. -/
def Obligations.PsschkMeaning : Prop :=
  encode .psschk = 0x00000050 ∧
  ∀ s : State, s.params.Legal →
    (∀ hash : HashPort, ∃ v : Bool, (v = true ↔ PssAccepts hash s.params s.mhashBytes s.emBytes) ∧
      execPsschkOn hash s = .next { s with
        verified := v
        status := { s.status with busy := false, done := true, resValid := true } }) ∧
    ∃ v : Bool, (v = true ↔ PssAccepts sha256 s.params s.mhashBytes s.emBytes) ∧
      exec .psschk s = .next { s with
        verified := v
        status := { s.status with busy := false, done := true, resValid := true } }

/-- R239, R236, R237: `PKCSCHK` never faults; RESULT is 1 exactly when KEY_LEN is at least 54 and EM is the one string
that the layout allows for MHASH. -/
def Obligations.PkcschkMeaning : Prop :=
  encode .pkcschk = 0x00000051 ∧
  ∀ s : State, exec .pkcschk s = .next { s with
    verified := decide (54 ≤ s.params.keyLen ∧ s.emBytes = pkcsString s.params s.mhashBytes)
    status := { s.status with busy := false, done := true, resValid := true } }

/-- R251: `VERIFYPSS` leaves `S^EXP mod N` in A, its bytes in EM and the PSS verdict in RESULT; its faults, in
order. T becomes any value, counted in the model's own field `freeCount` (log entry 5). -/
def Obligations.VerifypssMeaning : Prop :=
  encode .verifypss = 0x00000060 ∧
  (∀ s : State, s.exp ≠ 3 → s.exp ≠ 65537 → exec .verifypss s = .next (raiseFault .invalidExponent s)) ∧
  (∀ s : State, s.exp = 3 ∨ s.exp = 65537 → s.status.modValid = false →
    exec .verifypss s = .next (raiseFault .modulusNotSet s)) ∧
  (∀ s : State, s.exp = 3 ∨ s.exp = 65537 → s.status.modValid = true → s.regN ≤ s.regS →
    exec .verifypss s = .next (raiseFault .operandRange s)) ∧
  (∀ s : State, s.params.Legal → s.exp = 3 ∨ s.exp = 65537 → s.status.modValid = true → s.regS < s.regN →
    ∃ (tv : Nat) (v : Bool), tv < s.params.radix ^ 2 ∧
      (v = true ↔
        PssAccepts sha256 s.params s.mhashBytes (serBE s.params (s.regS ^ s.exp.toNat % s.regN))) ∧
      exec .verifypss s = .next { s with
        regA := s.regS ^ s.exp.toNat % s.regN
        em := Memory.ofBytes (serBE s.params (s.regS ^ s.exp.toNat % s.regN))
        regT := tv
        freeCount := s.freeCount + 1
        verified := v
        status := { s.status with busy := false, done := true, resValid := true } })

/-- R252: `VERIFYPKCS`, likewise with the PKCS#1 v1.5 verdict; T and `freeCount` as there (log entry 5). -/
def Obligations.VerifypkcsMeaning : Prop :=
  encode .verifypkcs = 0x00000061 ∧
  (∀ s : State, s.exp ≠ 3 → s.exp ≠ 65537 → exec .verifypkcs s = .next (raiseFault .invalidExponent s)) ∧
  (∀ s : State, s.exp = 3 ∨ s.exp = 65537 → s.status.modValid = false →
    exec .verifypkcs s = .next (raiseFault .modulusNotSet s)) ∧
  (∀ s : State, s.exp = 3 ∨ s.exp = 65537 → s.status.modValid = true → s.regN ≤ s.regS →
    exec .verifypkcs s = .next (raiseFault .operandRange s)) ∧
  (∀ s : State, s.exp = 3 ∨ s.exp = 65537 → s.status.modValid = true → s.regS < s.regN →
    ∃ tv : Nat, tv < s.params.radix ^ 2 ∧
      exec .verifypkcs s = .next { s with
        regA := s.regS ^ s.exp.toNat % s.regN
        em := Memory.ofBytes (serBE s.params (s.regS ^ s.exp.toNat % s.regN))
        regT := tv
        freeCount := s.freeCount + 1
        verified := decide (54 ≤ s.params.keyLen ∧
          serBE s.params (s.regS ^ s.exp.toNat % s.regN) = pkcsString s.params s.mhashBytes)
        status := { s.status with busy := false, done := true, resValid := true } })

/-! ### Faults and frames over all commands -/

/-- R272: a command that faults changes FAULTCODE and the flags and nothing else: faults are precise. -/
def Obligations.FaultsArePrecise : Prop :=
  ∀ (i : Instr) (s t : State), s.params.Legal → exec i s = .next t → s.status.fault = false → t.status.fault = true →
    ∃ c, t = { s with
      faultCode := { cause := some c, opcode := s.cmd.extractLsb' 0 8 }
      status := { s.status with fault := true, busy := false, done := false, resValid := false } }

/-- R23, R26, R43 and the table of R28: no command changes N, S, MHASH, SEED, EXP, MLEN, the latched word or the block's
parameters, and none touches the model's own events and replies (log entries 6 and 8). -/
def Obligations.CommandsKeepTheirInputs : Prop :=
  ∀ (i : Instr) (s t : State), exec i s = .next t →
    t.params = s.params ∧ t.regN = s.regN ∧ t.regS = s.regS ∧ t.mhash = s.mhash ∧ t.seed = s.seed ∧
    t.exp = s.exp ∧ t.mlen = s.mlen ∧ t.cmd = s.cmd ∧ t.events = s.events ∧ t.replies = s.replies

/-- R38, R31: only the four checking commands change RESULT or set RES_VALID. -/
def Obligations.OnlyCheckingCommandsGiveVerdicts : Prop :=
  ∀ (i : Instr) (s t : State), exec i s = .next t →
    i ≠ .psschk → i ≠ .pkcschk → i ≠ .verifypss → i ≠ .verifypkcs →
    t.verified = s.verified ∧ (t.status.resValid = true → s.status.resValid = true)

/-- R28: the buffer EM is written only by SERBE and the two verifications, MASK only by MGF1, and RR, NP0 and MOD_VALID
only by MODSET: with any other command every byte reads as before. -/
def Obligations.OnlyTheirCommandsWriteBuffersAndContext : Prop :=
  ∀ (i : Instr) (s t : State), exec i s = .next t →
    ((∀ ra, i ≠ .serbe ra) → i ≠ .verifypss → i ≠ .verifypkcs → ∀ k, t.em.read k = s.em.read k) ∧
    (i ≠ .mgf1 → ∀ k, t.mask.read k = s.mask.read k) ∧
    (i ≠ .modset → t.regRR = s.regRR ∧ t.np0 = s.np0 ∧ t.status.modValid = s.status.modValid)

/-- R23, R314: once MODSET has accepted the modulus, no step changes it or its context but one that clears MOD_VALID, and
that is a reset, which leaves the model's own events, replies and count to themselves (log entries 5, 6 and 8). -/
def Obligations.ModulusIsLockedUntilReset : Prop :=
  ∀ s t : State, s.Inv → s.status.modValid = true → step s = .next t →
    (t.status.modValid = true ∧ t.regN = s.regN ∧ t.regRR = s.regRR ∧ t.np0 = s.np0) ∨
    (∃ e r n, t = { State.resetOf s.params with events := e, replies := r, freeCount := n })

/-- R273, R274: a faulted block is frozen: a step is a reset or changes nothing of the block, only
the model's own events, replies and count (log entries 5, 6 and 8). -/
def Obligations.FaultedBlockIsFrozen : Prop :=
  ∀ s t : State, s.Inv → s.status.fault = true → step s = .next t →
    (∃ e r, t = { s with events := e, replies := r }) ∨
    (∃ e r n, t = { State.resetOf s.params with events := e, replies := r, freeCount := n })

/-! ### Registers and their functions -/

/-- R22, R27: the limbs are the digits of the integer, limb 0 least significant, and each is a limb. -/
def Obligations.LimbsAreTheDigits : Prop :=
  ∀ (p : Params) (v : Nat), v < p.radix →
    v = ∑ i ∈ Finset.range p.numLimbs, limb p.limbBits v i * 2 ^ (p.limbBits * i) ∧
    ∀ i, limb p.limbBits v i < 2 ^ p.limbBits

/-- R11: a register write is read back and leaves the others. R25: ONE reads 1. That a write to ONE through `State.setBn`
is discarded is the model's own (log entry 15): in the spec no command names ONE as a destination, and a host write to it is
refused. -/
def Obligations.RegisterWriteReadsBack : Prop :=
  ∀ (s : State) (r q : Reg) (v : Nat),
    (r ≠ .ONE → (s.setBn r v).bn r = v) ∧ (q ≠ r → (s.setBn r v).bn q = s.bn q) ∧
    (s.setBn .ONE v = s) ∧ s.bn .ONE = 1

/-- R121: the limb multiply-accumulate never overflows two limbs. -/
def Obligations.MacNeverOverflows : Prop :=
  ∀ w a b c d : Nat, a < 2 ^ w → b < 2 ^ w → c < 2 ^ w → d < 2 ^ w →
    (mac w a b c d).1 < 2 ^ w ∧ (mac w a b c d).2 < 2 ^ w ∧
    (mac w a b c d).1 * 2 ^ w + (mac w a b c d).2 = a * b + c + d

/-- R123: the reduction context of a valid modulus exists, is unique, and NP0 depends on limb 0 of N alone. -/
def Obligations.ReductionContextExists : Prop :=
  ∀ (p : Params) (n : Nat), p.Legal → ValidModulus p n →
    (∀ x, IsNPrime0 p n x ↔ x = nPrime0 p n) ∧
    (∀ n', limb p.limbBits n' 0 = limb p.limbBits n 0 → nPrime0 p n' = nPrime0 p n) ∧
    montRR p n = p.radix ^ 2 % n ∧
    ∃! x, IsRInv p n x

/-- R134: entering and leaving Montgomery form. -/
def Obligations.MontgomeryFormLaws : Prop :=
  ∀ (p : Params) (n np0 x y : Nat), p.Legal → ValidModulus p n → IsNPrime0 p n np0 → x < n → y < n →
    montMul p np0 n x (montRR p n) = x * p.radix % n ∧
    montMul p np0 n (x * p.radix % n) 1 = x ∧
    montMul p np0 n (x * p.radix % n) (y * p.radix % n) = x * y % n * p.radix % n ∧
    montMul p np0 n (x * p.radix % n) y = x * y % n

/-- R132: the modular product is the product modulo N, and two Montgomery products compute it. -/
def Obligations.ModMulByTwoMontgomeryProducts : Prop :=
  ∀ (p : Params) (n np0 a b : Nat), p.Legal → ValidModulus p n → IsNPrime0 p n np0 → a < n → b < n →
    modMul n a b = a * b % n ∧ modMul n a b < n ∧
    montMul p np0 n (montMul p np0 n a b) (montRR p n) = modMul n a b

/-- R130, R129: the word-serial sequence of MACs computes the Montgomery product. -/
def Obligations.WordSerialSequenceIsMontgomeryProduct : Prop :=
  ∀ (p : Params) (n np0 a b : Nat), p.Legal → ValidModulus p n → IsNPrime0 p n np0 → a < n → b < n →
    montMulLimbs p np0 n a b = montMul p np0 n a b

/-- R162: the micro-sequence in Montgomery products computes the same power, in plain form. -/
def Obligations.MontgomeryLadderComputesThePower : Prop :=
  ∀ (p : Params) (n np0 sig : Nat) (e : Word), p.Legal → ValidModulus p n → IsNPrime0 p n np0 → sig < n →
    e = 3 ∨ e = 65537 → modExpMont p np0 (montRR p n) sig e n = sig ^ e.toNat % n

/-- R174, R170, R171: the serializer writes KEY_LEN bytes, most significant first, from which the value can be read
back; `reverse` is its own inverse. -/
def Obligations.SerializerIsBigEndian : Prop :=
  (∀ xs : List Byte, reverseBytes (reverseBytes xs) = xs) ∧
  ∀ (p : Params) (v : Nat), v < 2 ^ (8 * p.keyLen) →
    (serBE p v).length = p.keyLen ∧
    (∀ j, j < p.keyLen → (serBE p v).getD j 0 = BitVec.ofNat 8 (v / 2 ^ (8 * (p.keyLen - 1 - j)))) ∧
    v = ∑ k ∈ Finset.range p.keyLen, ((serBE p v).getD (p.keyLen - 1 - k) 0).toNat * 2 ^ (8 * k)

/-- R172: `slice` fails exactly when the range exceeds the destination; otherwise it copies it and zero-fills. -/
def Obligations.SliceCopiesAndFills : Prop :=
  ∀ (xs : List Byte) (start stop m : Nat), start ≤ stop → stop ≤ xs.length →
    (m < stop - start → slice xs start stop m = .error .sliceBounds) ∧
    (stop - start ≤ m → ∃ ys, slice xs start stop m = .ok ys ∧ ys.length = m ∧
      ∀ i, i < m → ys.getD i 0 = if i < stop - start then xs.getD (start + i) 0 else 0)

/-- R189, R188, R187: over every hash port MGF1 fails exactly from 2^37 bytes on, makes `L div 32 + 1` calls, answers `L`
bytes, and its masks are stable: a shorter one starts a longer one. -/
def Obligations.MasksArePrefixStable : Prop :=
  ∀ (hash : HashPort) (seed : List Byte) (len : Nat),
    (2 ^ 37 ≤ len → mgf1 hash seed len = .error .maskTooLong) ∧
    (mgf1Inputs seed len).length = len / 32 + 1 ∧
    (len < 2 ^ 37 → ∃ m, mgf1 hash seed len = .ok m ∧ m.length = len ∧
      ∀ len', len' ≤ len → mgf1 hash seed len' = .ok (m.take len'))

/-- R185: the block calls the hash port with inputs of 36 and 72 bytes only: two ports that agree on those give the same
MGF1, PSSCHK and VERIFYPSS. -/
def Obligations.HashPortSeesTwoLengthsOnly : Prop :=
  ∀ (h₁ h₂ : HashPort) (s : State), (∀ x : List Byte, x.length = 36 ∨ x.length = 72 → h₁ x = h₂ x) →
    execMgf1On h₁ s = execMgf1On h₂ s ∧ execPsschkOn h₁ s = execPsschkOn h₂ s ∧
    execVerifypssOn h₁ s = execVerifypssOn h₂ s

/-! ### The verdicts -/

/-- R217 items 1 and 2, R201, R206, R207: on a block of fewer than 530 bits the PSS validator rejects everything. -/
def Obligations.ShortKeysNeverPassPss : Prop :=
  ∀ (hash : HashPort) (p : Params) (mHash em : List Byte), p.modBits < 530 →
    pssCheck hash p mHash em = .ok false

/-- 95_test_vectors.md section 2.10: from 530 bits on, and with `ShortKeysNeverPassPss` exactly there, some EM passes for
every message hash and every hash port, so the PSS verdict is not always false. -/
def Obligations.SomeEncodingPassesPssFrom530Bits : Prop :=
  ∀ (hash : HashPort) (p : Params) (mHash : List Byte), p.Legal → 530 ≤ p.modBits → mHash.length = 32 →
    ∃ em : List Byte, em.length = p.keyLen ∧ pssCheck hash p mHash em = .ok true

/-- R217 items 3 and 4, U11: the skipped byte of EM, and the bits of maskedDB[0] below the top `bitsToMask`, do not
influence the PSS verdict. -/
def Obligations.PssIgnoresSkippedBits : Prop :=
  ∀ (hash : HashPort) (p : Params) (mHash em : List Byte) (b : Byte),
    (p.modBits % 8 = 1 → pssCheck hash p mHash (em.set 0 b) = pssCheck hash p mHash em) ∧
    (b.toNat / 2 ^ (8 - p.bitsToMask) = (em.getD p.pssOffset 0).toNat / 2 ^ (8 - p.bitsToMask) →
      pssCheck hash p mHash (em.set p.pssOffset b) = pssCheck hash p mHash em)

/-- R255, first property, for PKCS#1 v1.5: a signature whose power is the integer of the encoded message for MHASH
verifies. -/
def Obligations.ValidPkcsSignatureVerifies : Prop :=
  ∀ s : State, s.status.modValid = true → s.exp = 3 ∨ s.exp = 65537 → s.regS < s.regN →
    54 ≤ s.params.keyLen →
    s.regS ^ s.exp.toNat % s.regN =
      ∑ k ∈ Finset.range s.params.keyLen,
        ((pkcsString s.params s.mhashBytes).getD (s.params.keyLen - 1 - k) 0).toNat * 2 ^ (8 * k) →
    ∃ t, exec .verifypkcs s = .next t ∧ t.verified = true ∧ t.status.resValid = true ∧
      t.emBytes = pkcsString s.params s.mhashBytes

/-- R253: from any idle state VERIFYPSS ends in the state of MODEXP; SERBE A; PSSCHK and VERIFYPKCS in that of MODEXP;
SERBE A; PKCSCHK, but for the latched word, and SERBE A does not fault; when MODEXP faults, every later command word is
refused. The two states have the same T, which R27 leaves open, because the free values are counted (log entry 5). -/
def Obligations.VerificationIsTheThreeCommands : Prop :=
  (∀ (s : State), s.Inv → s.status.idle = true →
    s.exp = 3 ∨ s.exp = 65537 → s.status.modValid = true → s.regS < s.regN →
    ∃ s₁ s₂ s₃ s₄ : State,
      exec .modexp (acceptCommand (encode .modexp) s) = .next s₁ ∧
      exec (.serbe .A) (acceptCommand (encode (.serbe .A)) s₁) = .next s₂ ∧
      exec .psschk (acceptCommand (encode .psschk) s₂) = .next s₃ ∧
      exec .pkcschk (acceptCommand (encode .pkcschk) s₂) = .next s₄ ∧
      s₁.status.fault = false ∧ s₂.status.fault = false ∧
      exec .verifypss (acceptCommand (encode .verifypss) s) = .next { s₃ with cmd := encode .verifypss } ∧
      exec .verifypkcs (acceptCommand (encode .verifypkcs) s) = .next { s₄ with cmd := encode .verifypkcs }) ∧
  (∀ (s s₁ : State), exec .modexp (acceptCommand (encode .modexp) s) = .next s₁ → s₁.status.fault = true →
    ∀ w, hostAccess (.csrWrite 2 w) s₁ = (s₁, .refused))

/-- R254: "No retries": a verification repeated with the same S, MHASH and EXP gives the same A, EM and RESULT. -/
def Obligations.VerificationIsIdempotent : Prop :=
  ∀ (i : Instr) (s t : State), i = .verifypss ∨ i = .verifypkcs →
    exec i s = .next t → t.status.fault = false →
    ∃ u, exec i (acceptCommand (encode i) t) = .next u ∧
      u.regA = t.regA ∧ u.em = t.em ∧ u.verified = t.verified ∧ u.status.fault = false

/-- R120, R28: what a verification leaves in A, EM and RESULT depends on MOD_BITS, N, S, EXP, MHASH and MOD_VALID alone, not
on the limb width, the other registers or the buffers. -/
def Obligations.VerdictDependsOnItsInputsOnly : Prop :=
  ∀ (i : Instr) (s s' : State), i = .verifypss ∨ i = .verifypkcs →
    s.params.modBits = s'.params.modBits → s.regN = s'.regN → s.regS = s'.regS → s.exp = s'.exp →
    s.mhash = s'.mhash → s.status.modValid = s'.status.modValid →
    s.status.fault = false → s'.status.fault = false →
    ∃ t t', exec i s = .next t ∧ exec i s' = .next t' ∧
      (t.status.fault = t'.status.fault) ∧
      (t.status.fault = false → t.regA = t'.regA ∧ t.em = t'.em ∧ t.verified = t'.verified) ∧
      (t.status.fault = true → t.faultCode.cause = t'.faultCode.cause)

/-! ### The host interface -/

/-- R68: a refused access changes no state of the block at all. -/
def Obligations.RefusedAccessChangesNothing : Prop :=
  ∀ (op : HostOp) (s : State), (hostAccess op s).2 = .refused → (hostAccess op s).1 = s

/-- R65, R64, R74: while BUSY every access is refused but a STATUS read, which reads BUSY 1 and the other flags as they are,
and a CTRL write or hardware reset. -/
def Obligations.BusyBlockAnswersStatusOnly : Prop :=
  ∀ (op : HostOp) (s : State), s.status.busy = true →
    (op = .csrRead 1 → ∃ w, hostAccess op s = (s, .word w) ∧ w.getLsbD 0 = true ∧ w.getLsbD 1 = s.status.done ∧
      w.getLsbD 2 = s.status.fault ∧ w.getLsbD 3 = s.status.modValid ∧ w.getLsbD 4 = s.status.resValid ∧
      ∀ j, 5 ≤ j → w.getLsbD j = false) ∧
    (op ≠ .csrRead 1 → op ≠ .hardReset → (∀ v, op ≠ .csrWrite 0 v) → hostAccess op s = (s, .refused))

/-- R66, R67: an access to an element that does not exist, and a write to a read-only one, is refused. -/
def Obligations.MissingAndReadOnlyElementsAreRefused : Prop :=
  ∀ (s : State),
    (∀ k, k = 7 ∨ 12 < k → (csrRead k s).2 = .refused ∧ ∀ v, (csrWrite k v s).2 = .refused) ∧
    (∀ k v, k = 1 ∨ k = 4 ∨ k = 5 ∨ (8 ≤ k ∧ k ≤ 12) → (csrWrite k v s).2 = .refused) ∧
    (∀ r i, r = 7 ∨ 8 < r ∨ (r < 7 ∧ s.params.numLimbs ≤ i) ∨ (r = 8 ∧ 2 * s.params.numLimbs ≤ i) →
      (limbRead r i s).2 = .refused ∧ ∀ v, (limbWrite r i v s).2 = .refused) ∧
    (∀ r i v, r = 1 ∨ r = 2 ∨ (r = 0 ∧ s.status.modValid = true) → (limbWrite r i v s).2 = .refused) ∧
    (∀ b i, 3 < b ∨ ((b = 0 ∨ b = 2) ∧ 32 ≤ i) ∨ (b = 1 ∧ s.params.keyLen ≤ i) ∨ (b = 3 ∧ s.params.maskCap ≤ i) →
      (byteRead b i s).2 = .refused ∧ ∀ v, (byteWrite b i v s).2 = .refused) ∧
    (∀ i v, (byteWrite 3 i v s).2 = .refused)

/-- R32, R31, R33, R34, R37 to R41, and the codes of R271: what each control register reads when the core is not busy. -/
def Obligations.ControlRegistersRead : Prop :=
  ∀ s : State, s.status.busy = false →
    hostAccess (.csrRead 0) s = (s, .word 0) ∧
    (∃ w, hostAccess (.csrRead 1) s = (s, .word w) ∧ w.getLsbD 0 = false ∧ w.getLsbD 1 = s.status.done ∧
      w.getLsbD 2 = s.status.fault ∧ w.getLsbD 3 = s.status.modValid ∧ w.getLsbD 4 = s.status.resValid ∧
      ∀ j, 5 ≤ j → w.getLsbD j = false) ∧
    hostAccess (.csrRead 2) s = (s, .word s.cmd) ∧ hostAccess (.csrRead 3) s = (s, .word s.exp) ∧
    hostAccess (.csrRead 4) s = (s, .word (if s.verified then 1 else 0)) ∧
    (∃ w, hostAccess (.csrRead 5) s = (s, .word w) ∧
      w.extractLsb' 8 8 = s.faultCode.opcode ∧ w.extractLsb' 16 16 = 0 ∧
      (s.faultCode.cause = none → w.extractLsb' 0 8 = 0) ∧
      (s.faultCode.cause = some .invalidExponent → w.extractLsb' 0 8 = 1) ∧
      (s.faultCode.cause = some .modulusParam → w.extractLsb' 0 8 = 2) ∧
      (s.faultCode.cause = some .modulusNotSet → w.extractLsb' 0 8 = 3) ∧
      (s.faultCode.cause = some .operandRange → w.extractLsb' 0 8 = 4) ∧
      (s.faultCode.cause = some .maskTooLong → w.extractLsb' 0 8 = 5) ∧
      (s.faultCode.cause = some .illegalCommand → w.extractLsb' 0 8 = 6) ∧
      (s.faultCode.cause = some .sliceBounds → w.extractLsb' 0 8 = 7) ∧
      (s.faultCode.cause = some .bufferCapacity → w.extractLsb' 0 8 = 8)) ∧
    hostAccess (.csrRead 6) s = (s, .word s.mlen) ∧
    hostAccess (.csrRead 8) s = (s, .word (BitVec.ofNat 32 s.params.modBits)) ∧
    hostAccess (.csrRead 9) s = (s, .word (BitVec.ofNat 32 s.params.keyLen)) ∧
    hostAccess (.csrRead 10) s = (s, .word (BitVec.ofNat 32 s.params.limbBits)) ∧
    hostAccess (.csrRead 11) s = (s, .word (BitVec.ofNat 32 s.params.numLimbs)) ∧
    hostAccess (.csrRead 12) s = (s, .word (BitVec.ofNat 32 s.params.maskCap))

/-- R63, R64: while the core is not busy, faulted or not, every existing limb and byte is read, with no side effect. -/
def Obligations.ReadsAreAnsweredWhenNotBusy : Prop :=
  ∀ s : State, s.status.busy = false →
    (∀ i, i < s.params.numLimbs →
      limbRead 0 i s = (s, .limb (limb s.params.limbBits s.regN i)) ∧
      limbRead 1 i s = (s, .limb (limb s.params.limbBits s.regRR i)) ∧
      limbRead 2 i s = (s, .limb (limb s.params.limbBits 1 i)) ∧
      limbRead 3 i s = (s, .limb (limb s.params.limbBits s.regS i)) ∧
      limbRead 4 i s = (s, .limb (limb s.params.limbBits s.regA i)) ∧
      limbRead 5 i s = (s, .limb (limb s.params.limbBits s.regB i)) ∧
      limbRead 6 i s = (s, .limb (limb s.params.limbBits s.regC i))) ∧
    (∀ i, i < 2 * s.params.numLimbs → limbRead 8 i s = (s, .limb (limb s.params.limbBits s.regT i))) ∧
    (∀ i, i < 32 → byteRead 0 i s = (s, .byte (s.mhash.read i)) ∧ byteRead 2 i s = (s, .byte (s.seed.read i))) ∧
    (∀ i, i < s.params.keyLen → byteRead 1 i s = (s, .byte (s.em.read i))) ∧
    (∀ i, i < s.params.maskCap → byteRead 3 i s = (s, .byte (s.mask.read i)))

/-- R34, R37, R40, R64: writes of CMD, EXP and MLEN are accepted exactly when the block is neither busy nor faulted. CMD
latches the word, sets BUSY and clears DONE and RES_VALID; EXP or MLEN takes the value; nothing else changes. Otherwise the
write is refused and nothing changes. -/
def Obligations.CommandWriteIsAcceptedWhenIdle : Prop :=
  ∀ (s : State) (w : Word),
    (s.status.busy = false → s.status.fault = false →
      hostAccess (.csrWrite 2 w) s =
        ({ s with cmd := w, status := { s.status with busy := true, done := false, resValid := false } }, .ok) ∧
      hostAccess (.csrWrite 3 w) s = ({ s with exp := w }, .ok) ∧
      hostAccess (.csrWrite 6 w) s = ({ s with mlen := w }, .ok)) ∧
    (s.status.busy = true ∨ s.status.fault = true →
      hostAccess (.csrWrite 2 w) s = (s, .refused) ∧ hostAccess (.csrWrite 3 w) s = (s, .refused) ∧
      hostAccess (.csrWrite 6 w) s = (s, .refused))

/-- R33, R47, R310: at any time, whatever the state, a CTRL write with bit 0 set or the hardware reset input leaves every
register, limb and byte 0, ONE 1, the flags clear, and the parameters as they were; with bit 0 clear nothing changes. -/
def Obligations.ResetClearsEverything : Prop :=
  (∀ (s : State) (v : Word), v.getLsbD 0 = false → hostAccess (.csrWrite 0 v) s = (s, .ok)) ∧
  ∀ (s : State) (op : HostOp), op = .hardReset ∨ (∃ v : Word, v.getLsbD 0 = true ∧ op = .csrWrite 0 v) →
    (hostAccess op s).2 = .ok ∧
    (∀ r, (hostAccess op s).1.bn r = if r = .ONE then 1 else 0) ∧
    (hostAccess op s).1.regT = 0 ∧ (hostAccess op s).1.np0 = 0 ∧
    statusWord (hostAccess op s).1.status = 0 ∧ (hostAccess op s).1.cmd = 0 ∧ (hostAccess op s).1.exp = 0 ∧
    (hostAccess op s).1.verified = false ∧ faultCodeWord (hostAccess op s).1.faultCode = 0 ∧
    (hostAccess op s).1.mlen = 0 ∧
    (∀ b i, ((hostAccess op s).1.buf b).read i = 0) ∧
    (hostAccess op s).1.params = s.params

/-- R64, R22, R62, R63: on an idle block a write of a limb value to an existing limb of S, A, B, C or T, and of N while
MOD_VALID is 0, answers ok; a busy or faulted block refuses every limb write. An accepted one is read back at its limb; every
other limb of every register, every byte of every buffer, every control register and NP0 are as before. -/
def Obligations.LimbWriteThenRead : Prop :=
  ∀ (s : State) (r i v : Nat),
    (s.status.busy = false → s.status.fault = false → v < 2 ^ s.params.limbBits →
      (((3 ≤ r ∧ r ≤ 6) ∨ (r = 0 ∧ s.status.modValid = false)) ∧ i < s.params.numLimbs) ∨
        (r = 8 ∧ i < 2 * s.params.numLimbs) →
      (hostAccess (.limbWrite r i v) s).2 = .ok) ∧
    (s.status.busy = true ∨ s.status.fault = true → (hostAccess (.limbWrite r i v) s).2 = .refused) ∧
    ((hostAccess (.limbWrite r i v) s).2 = .ok →
      (∀ r' i', (hostAccess (.limbRead r' i') (hostAccess (.limbWrite r i v) s).1).2 =
        (if r' = r ∧ i' = i then .limb v else (hostAccess (.limbRead r' i') s).2)) ∧
      (∀ b j, ((hostAccess (.limbWrite r i v) s).1.buf b).read j = (s.buf b).read j) ∧
      (∀ k, (hostAccess (.csrRead k) (hostAccess (.limbWrite r i v) s).1).2 = (hostAccess (.csrRead k) s).2) ∧
      (hostAccess (.limbWrite r i v) s).1.np0 = s.np0)

/-- R64, R42, R62, R63: on an idle block a write to an existing byte of MHASH, EM or SEED answers ok; a busy or faulted block
refuses every byte write. An accepted one is read back at its byte; every other byte of every buffer, every limb of every
register, every control register and NP0 are as before. -/
def Obligations.ByteWriteThenRead : Prop :=
  ∀ (s : State) (b i : Nat) (v : Byte),
    (s.status.busy = false → s.status.fault = false →
      ((b = 0 ∨ b = 2) ∧ i < 32) ∨ (b = 1 ∧ i < s.params.keyLen) → (hostAccess (.byteWrite b i v) s).2 = .ok) ∧
    (s.status.busy = true ∨ s.status.fault = true → (hostAccess (.byteWrite b i v) s).2 = .refused) ∧
    (s.Inv → (hostAccess (.byteWrite b i v) s).2 = .ok →
      (∀ b' i', (hostAccess (.byteRead b' i') (hostAccess (.byteWrite b i v) s).1).2 =
        (if b' = b ∧ i' = i then .byte v else (hostAccess (.byteRead b' i') s).2)) ∧
      (∀ r j, (hostAccess (.limbRead r j) (hostAccess (.byteWrite b i v) s).1).2 = (hostAccess (.limbRead r j) s).2) ∧
      (∀ k, (hostAccess (.csrRead k) (hostAccess (.byteWrite b i v) s).1).2 = (hostAccess (.csrRead k) s).2) ∧
      (hostAccess (.byteWrite b i v) s).1.np0 = s.np0)

/-- The canonical form of a buffer (log entry 18): two buffers that read the same at every index are the same data. -/
def Obligations.EqualBuffersAreEqualData : Prop :=
  ∀ m m' : Memory, m.wf = true → m'.wf = true → (∀ i, m.read i = m'.read i) → m = m'
end

