-- ==== Sys2Proof/Laws/Memory.lean ====
section
/-! SUPPORT. The laws of a byte buffer: a read after a write, and that every operation keeps the canonical form and the
bounds. -/

namespace Sys2Proof.Machine.Memory

open Sys2Proof

theorem wfFrom_mono {lo lo' : Nat} (h : lo' ≤ lo) : ∀ {m : Memory}, wfFrom lo m = true → wfFrom lo' m = true
  | [], _ => rfl
  | (k, v) :: m, hm => by
    simp only [wfFrom, Bool.and_eq_true, decide_eq_true_eq] at hm ⊢
    exact ⟨⟨by omega, hm.1.2⟩, hm.2⟩

/-- Below the first index that may be listed, every index reads the reset byte. -/
theorem read_below : ∀ {m : Memory} {lo i : Nat}, wfFrom lo m = true → i < lo → read m i = resetByte
  | [], _, _, _, _ => rfl
  | (k, v) :: m, lo, i, hm, hi => by
    simp only [wfFrom, Bool.and_eq_true, decide_eq_true_eq] at hm
    have hne : i ≠ k := by omega
    simp only [read, if_neg hne]
    exact read_below hm.2 (by omega)

theorem wfFrom_write : ∀ {m : Memory} {lo i : Nat} (v : Byte), wfFrom lo m = true → lo ≤ i → wfFrom lo (write m i v) = true
  | [], lo, i, v, _, hi => by
    unfold write
    split
    · rfl
    · simp [wfFrom, *]
  | (k, x) :: m, lo, i, v, hm, hi => by
    simp only [wfFrom, Bool.and_eq_true, decide_eq_true_eq] at hm
    unfold write
    split
    · split
      · simp [wfFrom, hm.1.1, hm.1.2, hm.2]
      · simp only [wfFrom, Bool.and_eq_true, decide_eq_true_eq]
        exact ⟨⟨hi, by assumption⟩, ⟨by omega, hm.1.2⟩, hm.2⟩
    · split
      · split
        · exact wfFrom_mono (by omega) hm.2
        · subst i
          simp only [wfFrom, Bool.and_eq_true, decide_eq_true_eq]
          exact ⟨⟨hm.1.1, by assumption⟩, hm.2⟩
      · simp only [wfFrom, Bool.and_eq_true, decide_eq_true_eq]
        exact ⟨hm.1, wfFrom_write v hm.2 (by omega)⟩

/-- A write keeps the canonical form. -/
theorem wf_write {m : Memory} (i : Nat) (v : Byte) (h : m.wf = true) : (m.write i v).wf = true :=
  wfFrom_write v h (Nat.zero_le i)

theorem read_writeFrom : ∀ {m : Memory} {lo : Nat} (i : Nat) (v : Byte) (j : Nat), wfFrom lo m = true →
    read (write m i v) j = if j = i then v else read m j
  | [], lo, i, v, j, _ => by
    unfold write
    split
    · subst v; simp [read]
    · simp [read]
  | (k, x) :: m, lo, i, v, j, hm => by
    simp only [wfFrom, Bool.and_eq_true, decide_eq_true_eq] at hm
    have below : ∀ q, q < k + 1 → read m q = resetByte := fun q hq => read_below hm.2 hq
    unfold write
    split
    · split
      · subst v
        by_cases hj : j = i
        · subst j
          have hne : i ≠ k := by omega
          simp only [read, if_neg hne, if_true]
          exact below i (by omega)
        · simp [read, hj]
      · simp [read]
    · split
      · subst i
        split
        · subst v
          by_cases hj : j = k
          · subst j; simpa [read] using below k (by omega)
          · simp [read, hj]
        · by_cases hj : j = k <;> simp [read, hj]
      · by_cases hj : j = k
        · subst j
          have hne : k ≠ i := fun h => by subst h; contradiction
          simp [read, hne]
        · simp only [read, if_neg hj]
          exact read_writeFrom i v j hm.2

/-- A read after a write: the written byte at its index, every other byte as before. -/
theorem read_write {m : Memory} (h : m.wf = true) (i : Nat) (v : Byte) (j : Nat) :
    (m.write i v).read j = if j = i then v else m.read j :=
  read_writeFrom i v j h

theorem wfFrom_ofBytesFrom : ∀ (i : Nat) (bs : List Byte), wfFrom i (ofBytesFrom i bs) = true
  | _, [] => rfl
  | i, b :: bs => by
    unfold ofBytesFrom
    split
    · exact wfFrom_mono (Nat.le_succ i) (wfFrom_ofBytesFrom (i + 1) bs)
    · simp only [wfFrom, Bool.and_eq_true, decide_eq_true_eq]
      exact ⟨⟨le_refl i, by assumption⟩, wfFrom_ofBytesFrom (i + 1) bs⟩

/-- A buffer filled from a byte string is canonical. -/
theorem wf_ofBytes (bs : List Byte) : (ofBytes bs).wf = true := wfFrom_ofBytesFrom 0 bs

theorem read_ofBytesFrom : ∀ (i : Nat) (bs : List Byte) (j : Nat), i ≤ j →
    read (ofBytesFrom i bs) j = bs.getD (j - i) resetByte
  | _, [], _, _ => by simp [ofBytesFrom, read]
  | i, b :: bs, j, hj => by
    have low : i < i + 1 := Nat.lt_succ_self i
    unfold ofBytesFrom
    by_cases hji : j = i
    · subst j
      split
      · subst b
        simpa using read_below (wfFrom_ofBytesFrom (i + 1) bs) low
      · simp [read]
    · obtain ⟨d, rfl⟩ : ∃ d, j = i + 1 + d := ⟨j - (i + 1), by omega⟩
      have ih := read_ofBytesFrom (i + 1) bs (i + 1 + d) (by omega)
      have e : i + 1 + d - i = d + 1 := by omega
      split
      · rw [ih, e]; simp
      · rw [read, if_neg hji, ih, e]; simp

/-- What a buffer filled from a byte string reads. -/
theorem read_ofBytes (bs : List Byte) (j : Nat) : (ofBytes bs).read j = bs.getD j resetByte :=
  read_ofBytesFrom 0 bs j (Nat.zero_le j)

/-- A write lists no index but its own and those listed before. -/
theorem mem_write : ∀ {m : Memory} {i : Nat} {v : Byte} {c : Host.Cell}, c ∈ m.write i v → c.1 = i ∨ c ∈ m
  | [], i, v, c, h => by
    unfold write at h
    split at h
    · simp at h
    · exact .inl (by simp at h; simp [h])
  | (k, x) :: m, i, v, c, h => by
    unfold write at h
    split at h
    · split at h
      · exact .inr h
      · rcases List.mem_cons.1 h with rfl | h
        · exact .inl rfl
        · exact .inr h
    · split at h
      · split at h
        · exact .inr (List.mem_cons_of_mem _ h)
        · rcases List.mem_cons.1 h with rfl | h
          · exact .inl rfl
          · exact .inr (List.mem_cons_of_mem _ h)
      · rcases List.mem_cons.1 h with rfl | h
        · exact .inr List.mem_cons_self
        · exact (mem_write h).imp id (List.mem_cons_of_mem _)

theorem inBounds_iff {len : Nat} {m : Memory} : m.inBounds len = true ↔ ∀ c ∈ m, c.1 < len := by
  simp only [inBounds, List.all_eq_true, decide_eq_true_eq]

/-- A write inside a buffer keeps it within its bounds. -/
theorem inBounds_write {len i : Nat} (v : Byte) (hi : i < len) {m : Memory} (h : m.inBounds len = true) :
    (m.write i v).inBounds len = true :=
  inBounds_iff.2 fun c hc => (mem_write hc).elim (fun e => e ▸ hi) (inBounds_iff.1 h c)

theorem inBounds_ofBytesFrom (len : Nat) : ∀ (i : Nat) (bs : List Byte), i + bs.length ≤ len →
    (ofBytesFrom i bs).inBounds len = true
  | _, [], _ => rfl
  | i, b :: bs, h => by
    have hl : i + 1 + bs.length ≤ len := by simp only [List.length_cons] at h; omega
    have ih := inBounds_ofBytesFrom len (i + 1) bs hl
    unfold ofBytesFrom
    split
    · exact ih
    · exact inBounds_iff.2 (List.forall_mem_cons.2 ⟨by simp only; omega, inBounds_iff.1 ih⟩)

/-- A buffer filled from a byte string that fits it stays within it. -/
theorem inBounds_ofBytes {len : Nat} {bs : List Byte} (h : bs.length ≤ len) : (ofBytes bs).inBounds len = true :=
  inBounds_ofBytesFrom len 0 bs (by omega)

theorem read_outside {len : Nat} : ∀ {m : Memory}, m.inBounds len = true → ∀ {i : Nat}, len ≤ i → m.read i = resetByte
  | [], _, _, _ => rfl
  | (k, v) :: m, h, i, hi => by
    have hk : k < len := inBounds_iff.1 h (k, v) List.mem_cons_self
    have hne : i ≠ k := by omega
    simp only [read, if_neg hne]
    exact read_outside (inBounds_iff.2 fun c hc => inBounds_iff.1 h c (List.mem_cons_of_mem _ hc)) hi

@[simp] theorem length_bytes (m : Memory) (len : Nat) : (m.bytes len).length = len := by simp [bytes]

/-- Byte `i` of the byte string of a buffer. -/
theorem getD_bytes (m : Memory) (len i : Nat) : (m.bytes len).getD i 0 = if i < len then m.read i else 0 := by
  by_cases h : i < len <;> simp [bytes, List.getD_eq_getElem?_getD, h]

/-- The bytes of a buffer filled from a byte string are that string. -/
theorem bytes_ofBytes (bs : List Byte) : (ofBytes bs).bytes bs.length = bs := by
  apply List.ext_getElem (by simp)
  intro i h1 h2
  have h := getD_bytes (ofBytes bs) bs.length i
  rw [read_ofBytes, if_pos h2] at h
  simpa [List.getD_eq_getElem?_getD, h1, h2, resetByte] using h

end Sys2Proof.Machine.Memory
end

