-- ==== Sys2Proof/Laws/State.lean ====
section
/-! SUPPORT. One lemma for each field of State and each named update: what the update leaves in the field. -/

namespace Sys2Proof.Machine

variable (s : State)

section raiseFault
@[simp] theorem raiseFault_params (c : Cause) : (raiseFault c s).params = s.params := rfl
@[simp] theorem raiseFault_regN (c : Cause) : (raiseFault c s).regN = s.regN := rfl
@[simp] theorem raiseFault_regRR (c : Cause) : (raiseFault c s).regRR = s.regRR := rfl
@[simp] theorem raiseFault_regS (c : Cause) : (raiseFault c s).regS = s.regS := rfl
@[simp] theorem raiseFault_regA (c : Cause) : (raiseFault c s).regA = s.regA := rfl
@[simp] theorem raiseFault_regB (c : Cause) : (raiseFault c s).regB = s.regB := rfl
@[simp] theorem raiseFault_regC (c : Cause) : (raiseFault c s).regC = s.regC := rfl
@[simp] theorem raiseFault_regT (c : Cause) : (raiseFault c s).regT = s.regT := rfl
@[simp] theorem raiseFault_np0 (c : Cause) : (raiseFault c s).np0 = s.np0 := rfl
@[simp] theorem raiseFault_status (c : Cause) : (raiseFault c s).status = s.status.faulted := rfl
@[simp] theorem raiseFault_cmd (c : Cause) : (raiseFault c s).cmd = s.cmd := rfl
@[simp] theorem raiseFault_exp (c : Cause) : (raiseFault c s).exp = s.exp := rfl
@[simp] theorem raiseFault_verified (c : Cause) : (raiseFault c s).verified = s.verified := rfl
@[simp] theorem raiseFault_faultCode (c : Cause) : (raiseFault c s).faultCode = { cause := some c, opcode := s.cmd.opcode } := rfl
@[simp] theorem raiseFault_mlen (c : Cause) : (raiseFault c s).mlen = s.mlen := rfl
@[simp] theorem raiseFault_mhash (c : Cause) : (raiseFault c s).mhash = s.mhash := rfl
@[simp] theorem raiseFault_em (c : Cause) : (raiseFault c s).em = s.em := rfl
@[simp] theorem raiseFault_seed (c : Cause) : (raiseFault c s).seed = s.seed := rfl
@[simp] theorem raiseFault_mask (c : Cause) : (raiseFault c s).mask = s.mask := rfl
@[simp] theorem raiseFault_events (c : Cause) : (raiseFault c s).events = s.events := rfl
@[simp] theorem raiseFault_replies (c : Cause) : (raiseFault c s).replies = s.replies := rfl
@[simp] theorem raiseFault_freeCount (c : Cause) : (raiseFault c s).freeCount = s.freeCount := rfl
@[simp] theorem raiseFault_bn (c : Cause) (r : Reg) : (raiseFault c s).bn r = s.bn r := by cases r <;> rfl
end raiseFault

section acceptCommand
@[simp] theorem acceptCommand_params (w : Word) : (acceptCommand w s).params = s.params := rfl
@[simp] theorem acceptCommand_regN (w : Word) : (acceptCommand w s).regN = s.regN := rfl
@[simp] theorem acceptCommand_regRR (w : Word) : (acceptCommand w s).regRR = s.regRR := rfl
@[simp] theorem acceptCommand_regS (w : Word) : (acceptCommand w s).regS = s.regS := rfl
@[simp] theorem acceptCommand_regA (w : Word) : (acceptCommand w s).regA = s.regA := rfl
@[simp] theorem acceptCommand_regB (w : Word) : (acceptCommand w s).regB = s.regB := rfl
@[simp] theorem acceptCommand_regC (w : Word) : (acceptCommand w s).regC = s.regC := rfl
@[simp] theorem acceptCommand_regT (w : Word) : (acceptCommand w s).regT = s.regT := rfl
@[simp] theorem acceptCommand_np0 (w : Word) : (acceptCommand w s).np0 = s.np0 := rfl
@[simp] theorem acceptCommand_status (w : Word) : (acceptCommand w s).status = s.status.accepted := rfl
@[simp] theorem acceptCommand_cmd (w : Word) : (acceptCommand w s).cmd = w := rfl
@[simp] theorem acceptCommand_exp (w : Word) : (acceptCommand w s).exp = s.exp := rfl
@[simp] theorem acceptCommand_verified (w : Word) : (acceptCommand w s).verified = s.verified := rfl
@[simp] theorem acceptCommand_faultCode (w : Word) : (acceptCommand w s).faultCode = s.faultCode := rfl
@[simp] theorem acceptCommand_mlen (w : Word) : (acceptCommand w s).mlen = s.mlen := rfl
@[simp] theorem acceptCommand_mhash (w : Word) : (acceptCommand w s).mhash = s.mhash := rfl
@[simp] theorem acceptCommand_em (w : Word) : (acceptCommand w s).em = s.em := rfl
@[simp] theorem acceptCommand_seed (w : Word) : (acceptCommand w s).seed = s.seed := rfl
@[simp] theorem acceptCommand_mask (w : Word) : (acceptCommand w s).mask = s.mask := rfl
@[simp] theorem acceptCommand_events (w : Word) : (acceptCommand w s).events = s.events := rfl
@[simp] theorem acceptCommand_replies (w : Word) : (acceptCommand w s).replies = s.replies := rfl
@[simp] theorem acceptCommand_freeCount (w : Word) : (acceptCommand w s).freeCount = s.freeCount := rfl
@[simp] theorem acceptCommand_bn (w : Word) (r : Reg) : (acceptCommand w s).bn r = s.bn r := by cases r <;> rfl
end acceptCommand

section complete
@[simp] theorem complete_params : (complete s).params = s.params := rfl
@[simp] theorem complete_regN : (complete s).regN = s.regN := rfl
@[simp] theorem complete_regRR : (complete s).regRR = s.regRR := rfl
@[simp] theorem complete_regS : (complete s).regS = s.regS := rfl
@[simp] theorem complete_regA : (complete s).regA = s.regA := rfl
@[simp] theorem complete_regB : (complete s).regB = s.regB := rfl
@[simp] theorem complete_regC : (complete s).regC = s.regC := rfl
@[simp] theorem complete_regT : (complete s).regT = s.regT := rfl
@[simp] theorem complete_np0 : (complete s).np0 = s.np0 := rfl
@[simp] theorem complete_status : (complete s).status = s.status.completed := rfl
@[simp] theorem complete_cmd : (complete s).cmd = s.cmd := rfl
@[simp] theorem complete_exp : (complete s).exp = s.exp := rfl
@[simp] theorem complete_verified : (complete s).verified = s.verified := rfl
@[simp] theorem complete_faultCode : (complete s).faultCode = s.faultCode := rfl
@[simp] theorem complete_mlen : (complete s).mlen = s.mlen := rfl
@[simp] theorem complete_mhash : (complete s).mhash = s.mhash := rfl
@[simp] theorem complete_em : (complete s).em = s.em := rfl
@[simp] theorem complete_seed : (complete s).seed = s.seed := rfl
@[simp] theorem complete_mask : (complete s).mask = s.mask := rfl
@[simp] theorem complete_events : (complete s).events = s.events := rfl
@[simp] theorem complete_replies : (complete s).replies = s.replies := rfl
@[simp] theorem complete_freeCount : (complete s).freeCount = s.freeCount := rfl
@[simp] theorem complete_bn (r : Reg) : (complete s).bn r = s.bn r := by cases r <;> rfl
end complete

section completeChecked
@[simp] theorem completeChecked_params (v : Bool) : (completeChecked v s).params = s.params := rfl
@[simp] theorem completeChecked_regN (v : Bool) : (completeChecked v s).regN = s.regN := rfl
@[simp] theorem completeChecked_regRR (v : Bool) : (completeChecked v s).regRR = s.regRR := rfl
@[simp] theorem completeChecked_regS (v : Bool) : (completeChecked v s).regS = s.regS := rfl
@[simp] theorem completeChecked_regA (v : Bool) : (completeChecked v s).regA = s.regA := rfl
@[simp] theorem completeChecked_regB (v : Bool) : (completeChecked v s).regB = s.regB := rfl
@[simp] theorem completeChecked_regC (v : Bool) : (completeChecked v s).regC = s.regC := rfl
@[simp] theorem completeChecked_regT (v : Bool) : (completeChecked v s).regT = s.regT := rfl
@[simp] theorem completeChecked_np0 (v : Bool) : (completeChecked v s).np0 = s.np0 := rfl
@[simp] theorem completeChecked_status (v : Bool) : (completeChecked v s).status = s.status.checked := rfl
@[simp] theorem completeChecked_cmd (v : Bool) : (completeChecked v s).cmd = s.cmd := rfl
@[simp] theorem completeChecked_exp (v : Bool) : (completeChecked v s).exp = s.exp := rfl
@[simp] theorem completeChecked_verified (v : Bool) : (completeChecked v s).verified = v := rfl
@[simp] theorem completeChecked_faultCode (v : Bool) : (completeChecked v s).faultCode = s.faultCode := rfl
@[simp] theorem completeChecked_mlen (v : Bool) : (completeChecked v s).mlen = s.mlen := rfl
@[simp] theorem completeChecked_mhash (v : Bool) : (completeChecked v s).mhash = s.mhash := rfl
@[simp] theorem completeChecked_em (v : Bool) : (completeChecked v s).em = s.em := rfl
@[simp] theorem completeChecked_seed (v : Bool) : (completeChecked v s).seed = s.seed := rfl
@[simp] theorem completeChecked_mask (v : Bool) : (completeChecked v s).mask = s.mask := rfl
@[simp] theorem completeChecked_events (v : Bool) : (completeChecked v s).events = s.events := rfl
@[simp] theorem completeChecked_replies (v : Bool) : (completeChecked v s).replies = s.replies := rfl
@[simp] theorem completeChecked_freeCount (v : Bool) : (completeChecked v s).freeCount = s.freeCount := rfl
@[simp] theorem completeChecked_bn (v : Bool) (r : Reg) : (completeChecked v s).bn r = s.bn r := by cases r <;> rfl
end completeChecked

section freeT
@[simp] theorem freeT_params : (freeT s).params = s.params := rfl
@[simp] theorem freeT_regN : (freeT s).regN = s.regN := rfl
@[simp] theorem freeT_regRR : (freeT s).regRR = s.regRR := rfl
@[simp] theorem freeT_regS : (freeT s).regS = s.regS := rfl
@[simp] theorem freeT_regA : (freeT s).regA = s.regA := rfl
@[simp] theorem freeT_regB : (freeT s).regB = s.regB := rfl
@[simp] theorem freeT_regC : (freeT s).regC = s.regC := rfl
@[simp] theorem freeT_regT : (freeT s).regT = Config.freeT s.freeCount % s.params.radix ^ 2 := rfl
@[simp] theorem freeT_np0 : (freeT s).np0 = s.np0 := rfl
@[simp] theorem freeT_status : (freeT s).status = s.status := rfl
@[simp] theorem freeT_cmd : (freeT s).cmd = s.cmd := rfl
@[simp] theorem freeT_exp : (freeT s).exp = s.exp := rfl
@[simp] theorem freeT_verified : (freeT s).verified = s.verified := rfl
@[simp] theorem freeT_faultCode : (freeT s).faultCode = s.faultCode := rfl
@[simp] theorem freeT_mlen : (freeT s).mlen = s.mlen := rfl
@[simp] theorem freeT_mhash : (freeT s).mhash = s.mhash := rfl
@[simp] theorem freeT_em : (freeT s).em = s.em := rfl
@[simp] theorem freeT_seed : (freeT s).seed = s.seed := rfl
@[simp] theorem freeT_mask : (freeT s).mask = s.mask := rfl
@[simp] theorem freeT_events : (freeT s).events = s.events := rfl
@[simp] theorem freeT_replies : (freeT s).replies = s.replies := rfl
@[simp] theorem freeT_freeCount : (freeT s).freeCount = s.freeCount + 1 := rfl
@[simp] theorem freeT_bn (r : Reg) : (freeT s).bn r = s.bn r := by cases r <;> rfl
end freeT

section setEm
@[simp] theorem setEm_params (bs : List Byte) : (s.setEm bs).params = s.params := rfl
@[simp] theorem setEm_regN (bs : List Byte) : (s.setEm bs).regN = s.regN := rfl
@[simp] theorem setEm_regRR (bs : List Byte) : (s.setEm bs).regRR = s.regRR := rfl
@[simp] theorem setEm_regS (bs : List Byte) : (s.setEm bs).regS = s.regS := rfl
@[simp] theorem setEm_regA (bs : List Byte) : (s.setEm bs).regA = s.regA := rfl
@[simp] theorem setEm_regB (bs : List Byte) : (s.setEm bs).regB = s.regB := rfl
@[simp] theorem setEm_regC (bs : List Byte) : (s.setEm bs).regC = s.regC := rfl
@[simp] theorem setEm_regT (bs : List Byte) : (s.setEm bs).regT = s.regT := rfl
@[simp] theorem setEm_np0 (bs : List Byte) : (s.setEm bs).np0 = s.np0 := rfl
@[simp] theorem setEm_status (bs : List Byte) : (s.setEm bs).status = s.status := rfl
@[simp] theorem setEm_cmd (bs : List Byte) : (s.setEm bs).cmd = s.cmd := rfl
@[simp] theorem setEm_exp (bs : List Byte) : (s.setEm bs).exp = s.exp := rfl
@[simp] theorem setEm_verified (bs : List Byte) : (s.setEm bs).verified = s.verified := rfl
@[simp] theorem setEm_faultCode (bs : List Byte) : (s.setEm bs).faultCode = s.faultCode := rfl
@[simp] theorem setEm_mlen (bs : List Byte) : (s.setEm bs).mlen = s.mlen := rfl
@[simp] theorem setEm_mhash (bs : List Byte) : (s.setEm bs).mhash = s.mhash := rfl
@[simp] theorem setEm_em (bs : List Byte) : (s.setEm bs).em = Memory.ofBytes bs := rfl
@[simp] theorem setEm_seed (bs : List Byte) : (s.setEm bs).seed = s.seed := rfl
@[simp] theorem setEm_mask (bs : List Byte) : (s.setEm bs).mask = s.mask := rfl
@[simp] theorem setEm_events (bs : List Byte) : (s.setEm bs).events = s.events := rfl
@[simp] theorem setEm_replies (bs : List Byte) : (s.setEm bs).replies = s.replies := rfl
@[simp] theorem setEm_freeCount (bs : List Byte) : (s.setEm bs).freeCount = s.freeCount := rfl
@[simp] theorem setEm_bn (bs : List Byte) (r : Reg) : (s.setEm bs).bn r = s.bn r := by cases r <;> rfl
end setEm

section withContext
@[simp] theorem withContext_params : s.withContext.params = s.params := rfl
@[simp] theorem withContext_regN : s.withContext.regN = s.regN := rfl
@[simp] theorem withContext_regRR : s.withContext.regRR = montRR s.params s.regN := rfl
@[simp] theorem withContext_regS : s.withContext.regS = s.regS := rfl
@[simp] theorem withContext_regA : s.withContext.regA = s.regA := rfl
@[simp] theorem withContext_regB : s.withContext.regB = s.regB := rfl
@[simp] theorem withContext_regC : s.withContext.regC = s.regC := rfl
@[simp] theorem withContext_regT : s.withContext.regT = s.regT := rfl
@[simp] theorem withContext_np0 : s.withContext.np0 = nPrime0 s.params s.regN := rfl
@[simp] theorem withContext_status : s.withContext.status = { s.status with modValid := true } := rfl
@[simp] theorem withContext_cmd : s.withContext.cmd = s.cmd := rfl
@[simp] theorem withContext_exp : s.withContext.exp = s.exp := rfl
@[simp] theorem withContext_verified : s.withContext.verified = s.verified := rfl
@[simp] theorem withContext_faultCode : s.withContext.faultCode = s.faultCode := rfl
@[simp] theorem withContext_mlen : s.withContext.mlen = s.mlen := rfl
@[simp] theorem withContext_mhash : s.withContext.mhash = s.mhash := rfl
@[simp] theorem withContext_em : s.withContext.em = s.em := rfl
@[simp] theorem withContext_seed : s.withContext.seed = s.seed := rfl
@[simp] theorem withContext_mask : s.withContext.mask = s.mask := rfl
@[simp] theorem withContext_events : s.withContext.events = s.events := rfl
@[simp] theorem withContext_replies : s.withContext.replies = s.replies := rfl
@[simp] theorem withContext_freeCount : s.withContext.freeCount = s.freeCount := rfl
end withContext

section setBn
variable (r : Reg) (v : Nat)
@[simp] theorem setBn_params : (s.setBn r v).params = s.params := by cases r <;> rfl
@[simp] theorem setBn_regT : (s.setBn r v).regT = s.regT := by cases r <;> rfl
@[simp] theorem setBn_np0 : (s.setBn r v).np0 = s.np0 := by cases r <;> rfl
@[simp] theorem setBn_status : (s.setBn r v).status = s.status := by cases r <;> rfl
@[simp] theorem setBn_cmd : (s.setBn r v).cmd = s.cmd := by cases r <;> rfl
@[simp] theorem setBn_exp : (s.setBn r v).exp = s.exp := by cases r <;> rfl
@[simp] theorem setBn_verified : (s.setBn r v).verified = s.verified := by cases r <;> rfl
@[simp] theorem setBn_faultCode : (s.setBn r v).faultCode = s.faultCode := by cases r <;> rfl
@[simp] theorem setBn_mlen : (s.setBn r v).mlen = s.mlen := by cases r <;> rfl
@[simp] theorem setBn_mhash : (s.setBn r v).mhash = s.mhash := by cases r <;> rfl
@[simp] theorem setBn_em : (s.setBn r v).em = s.em := by cases r <;> rfl
@[simp] theorem setBn_seed : (s.setBn r v).seed = s.seed := by cases r <;> rfl
@[simp] theorem setBn_mask : (s.setBn r v).mask = s.mask := by cases r <;> rfl
@[simp] theorem setBn_events : (s.setBn r v).events = s.events := by cases r <;> rfl
@[simp] theorem setBn_replies : (s.setBn r v).replies = s.replies := by cases r <;> rfl
@[simp] theorem setBn_freeCount : (s.setBn r v).freeCount = s.freeCount := by cases r <;> rfl
@[simp] theorem setBn_regN : (s.setBn r v).regN = if r = .N then v else s.regN := by cases r <;> rfl
@[simp] theorem setBn_regRR : (s.setBn r v).regRR = if r = .RR then v else s.regRR := by cases r <;> rfl
@[simp] theorem setBn_regS : (s.setBn r v).regS = if r = .S then v else s.regS := by cases r <;> rfl
@[simp] theorem setBn_regA : (s.setBn r v).regA = if r = .A then v else s.regA := by cases r <;> rfl
@[simp] theorem setBn_regB : (s.setBn r v).regB = if r = .B then v else s.regB := by cases r <;> rfl
@[simp] theorem setBn_regC : (s.setBn r v).regC = if r = .C then v else s.regC := by cases r <;> rfl
/-- R11, R25: a write is read back, but for ONE, which discards it; every other register is as before. -/
theorem setBn_bn (q : Reg) : (s.setBn r v).bn q = if q = r ∧ r ≠ .ONE then v else s.bn q := by
  cases r <;> cases q <;> rfl
end setBn

section flags
variable (f : Status)
@[simp] theorem completed_busy : f.completed.busy = false := rfl
@[simp] theorem completed_done : f.completed.done = true := rfl
@[simp] theorem completed_fault : f.completed.fault = f.fault := rfl
@[simp] theorem completed_modValid : f.completed.modValid = f.modValid := rfl
@[simp] theorem completed_resValid : f.completed.resValid = f.resValid := rfl
@[simp] theorem checked_busy : f.checked.busy = false := rfl
@[simp] theorem checked_done : f.checked.done = true := rfl
@[simp] theorem checked_fault : f.checked.fault = f.fault := rfl
@[simp] theorem checked_modValid : f.checked.modValid = f.modValid := rfl
@[simp] theorem checked_resValid : f.checked.resValid = true := rfl
@[simp] theorem faulted_busy : f.faulted.busy = false := rfl
@[simp] theorem faulted_done : f.faulted.done = false := rfl
@[simp] theorem faulted_fault : f.faulted.fault = true := rfl
@[simp] theorem faulted_modValid : f.faulted.modValid = f.modValid := rfl
@[simp] theorem faulted_resValid : f.faulted.resValid = false := rfl
@[simp] theorem accepted_busy : f.accepted.busy = true := rfl
@[simp] theorem accepted_done : f.accepted.done = false := rfl
@[simp] theorem accepted_fault : f.accepted.fault = f.fault := rfl
@[simp] theorem accepted_modValid : f.accepted.modValid = f.modValid := rfl
@[simp] theorem accepted_resValid : f.accepted.resValid = false := rfl
end flags

section exponentiate
@[simp] theorem exponentiate_params : (exponentiate s).params = s.params := rfl
@[simp] theorem exponentiate_regN : (exponentiate s).regN = s.regN := rfl
@[simp] theorem exponentiate_regRR : (exponentiate s).regRR = s.regRR := rfl
@[simp] theorem exponentiate_regS : (exponentiate s).regS = s.regS := rfl
@[simp] theorem exponentiate_regA : (exponentiate s).regA = modExp s.regS s.exp s.regN := rfl
@[simp] theorem exponentiate_regB : (exponentiate s).regB = s.regB := rfl
@[simp] theorem exponentiate_regC : (exponentiate s).regC = s.regC := rfl
@[simp] theorem exponentiate_regT : (exponentiate s).regT = Config.freeT s.freeCount % s.params.radix ^ 2 := rfl
@[simp] theorem exponentiate_np0 : (exponentiate s).np0 = s.np0 := rfl
@[simp] theorem exponentiate_status : (exponentiate s).status = s.status := rfl
@[simp] theorem exponentiate_cmd : (exponentiate s).cmd = s.cmd := rfl
@[simp] theorem exponentiate_exp : (exponentiate s).exp = s.exp := rfl
@[simp] theorem exponentiate_verified : (exponentiate s).verified = s.verified := rfl
@[simp] theorem exponentiate_faultCode : (exponentiate s).faultCode = s.faultCode := rfl
@[simp] theorem exponentiate_mlen : (exponentiate s).mlen = s.mlen := rfl
@[simp] theorem exponentiate_mhash : (exponentiate s).mhash = s.mhash := rfl
@[simp] theorem exponentiate_em : (exponentiate s).em = s.em := rfl
@[simp] theorem exponentiate_seed : (exponentiate s).seed = s.seed := rfl
@[simp] theorem exponentiate_mask : (exponentiate s).mask = s.mask := rfl
@[simp] theorem exponentiate_events : (exponentiate s).events = s.events := rfl
@[simp] theorem exponentiate_replies : (exponentiate s).replies = s.replies := rfl
@[simp] theorem exponentiate_freeCount : (exponentiate s).freeCount = s.freeCount + 1 := rfl
end exponentiate

section serialize
variable (r : Reg)
@[simp] theorem serialize_params : (serialize r s).params = s.params := rfl
@[simp] theorem serialize_regN : (serialize r s).regN = s.regN := rfl
@[simp] theorem serialize_regRR : (serialize r s).regRR = s.regRR := rfl
@[simp] theorem serialize_regS : (serialize r s).regS = s.regS := rfl
@[simp] theorem serialize_regA : (serialize r s).regA = s.regA := rfl
@[simp] theorem serialize_regB : (serialize r s).regB = s.regB := rfl
@[simp] theorem serialize_regC : (serialize r s).regC = s.regC := rfl
@[simp] theorem serialize_regT : (serialize r s).regT = s.regT := rfl
@[simp] theorem serialize_np0 : (serialize r s).np0 = s.np0 := rfl
@[simp] theorem serialize_status : (serialize r s).status = s.status := rfl
@[simp] theorem serialize_cmd : (serialize r s).cmd = s.cmd := rfl
@[simp] theorem serialize_exp : (serialize r s).exp = s.exp := rfl
@[simp] theorem serialize_verified : (serialize r s).verified = s.verified := rfl
@[simp] theorem serialize_faultCode : (serialize r s).faultCode = s.faultCode := rfl
@[simp] theorem serialize_mlen : (serialize r s).mlen = s.mlen := rfl
@[simp] theorem serialize_mhash : (serialize r s).mhash = s.mhash := rfl
@[simp] theorem serialize_em : (serialize r s).em = Memory.ofBytes (serBE s.params (s.bn r)) := rfl
@[simp] theorem serialize_seed : (serialize r s).seed = s.seed := rfl
@[simp] theorem serialize_mask : (serialize r s).mask = s.mask := rfl
@[simp] theorem serialize_events : (serialize r s).events = s.events := rfl
@[simp] theorem serialize_replies : (serialize r s).replies = s.replies := rfl
@[simp] theorem serialize_freeCount : (serialize r s).freeCount = s.freeCount := rfl
end serialize

section performReset
@[simp] theorem performReset_params : (performReset s).params = s.params := rfl
@[simp] theorem performReset_regN : (performReset s).regN = (State.resetOf s.params).regN := rfl
@[simp] theorem performReset_regRR : (performReset s).regRR = (State.resetOf s.params).regRR := rfl
@[simp] theorem performReset_regS : (performReset s).regS = (State.resetOf s.params).regS := rfl
@[simp] theorem performReset_regA : (performReset s).regA = (State.resetOf s.params).regA := rfl
@[simp] theorem performReset_regB : (performReset s).regB = (State.resetOf s.params).regB := rfl
@[simp] theorem performReset_regC : (performReset s).regC = (State.resetOf s.params).regC := rfl
@[simp] theorem performReset_regT : (performReset s).regT = (State.resetOf s.params).regT := rfl
@[simp] theorem performReset_np0 : (performReset s).np0 = (State.resetOf s.params).np0 := rfl
@[simp] theorem performReset_status : (performReset s).status = (State.resetOf s.params).status := rfl
@[simp] theorem performReset_cmd : (performReset s).cmd = (State.resetOf s.params).cmd := rfl
@[simp] theorem performReset_exp : (performReset s).exp = (State.resetOf s.params).exp := rfl
@[simp] theorem performReset_verified : (performReset s).verified = (State.resetOf s.params).verified := rfl
@[simp] theorem performReset_faultCode : (performReset s).faultCode = (State.resetOf s.params).faultCode := rfl
@[simp] theorem performReset_mlen : (performReset s).mlen = (State.resetOf s.params).mlen := rfl
@[simp] theorem performReset_mhash : (performReset s).mhash = (State.resetOf s.params).mhash := rfl
@[simp] theorem performReset_em : (performReset s).em = (State.resetOf s.params).em := rfl
@[simp] theorem performReset_seed : (performReset s).seed = (State.resetOf s.params).seed := rfl
@[simp] theorem performReset_mask : (performReset s).mask = (State.resetOf s.params).mask := rfl
@[simp] theorem performReset_events : (performReset s).events = s.events := rfl
@[simp] theorem performReset_replies : (performReset s).replies = s.replies := rfl
@[simp] theorem performReset_freeCount : (performReset s).freeCount = s.freeCount := rfl
end performReset

end Sys2Proof.Machine
end

