-- ==== Sys2Proof/Laws/Ops.lean ====
section
/-! SUPPORT. What the shared operations can do, said once: guarded commands, a step, and the checked functions. -/

namespace Sys2Proof.Machine

/-- A guarded command always answers a next state. -/
theorem guarded_next {c : Option Cause} {f : State → State} {s t : State} (h : guarded c f s = .next t) :
    (∃ k, c = some k ∧ t = raiseFault k s) ∨ (c = none ∧ t = f s) := by
  cases c with
  | some k => exact .inl ⟨k, rfl, by simpa [guarded] using h.symm⟩
  | none => exact .inr ⟨rfl, by simpa [guarded] using h.symm⟩

@[simp] theorem guarded_some (k : Cause) (f : State → State) (s : State) : guarded (some k) f s = .next (raiseFault k s) := rfl
@[simp] theorem guarded_none (f : State → State) (s : State) : guarded none f s = .next (f s) := rfl

/-- A checking command leaves a fault or a verdict. -/
theorem finishCheck_cases (v : Except Cause Bool) (s : State) :
    (∃ b, v = .ok b ∧ finishCheck v s = completeChecked b s) ∨ (∃ c, v = .error c ∧ finishCheck v s = raiseFault c s) := by
  cases v with
  | ok b => exact .inl ⟨b, rfl, rfl⟩
  | error c => exact .inr ⟨c, rfl, rfl⟩

/-- What the core's turn can do: hold an idle core's state, fault on an illegal word, or execute the decoded command. -/
theorem coreTurn_next {s t : State} (h : coreTurn s = .next t) :
    (s.status.busy = false ∧ t = s) ∨
    (s.status.busy = true ∧ (∃ e, decode s.cmd = .error e) ∧ t = raiseFault .illegalCommand s) ∨
    (s.status.busy = true ∧ ∃ i, decode s.cmd = .ok i ∧ exec i s = .next t) := by
  unfold coreTurn at h
  split at h
  · rename_i hb
    split at h
    · exact .inr (.inr ⟨hb, _, by assumption, h⟩)
    · refine .inr (.inl ⟨hb, ⟨_, by assumption⟩, ?_⟩)
      simpa using h.symm
  · rename_i hb
    exact .inl ⟨by simpa using hb, by simpa using h.symm⟩

/-- What a step can do: the core's turn or the host's, on the state with the event taken off. -/
theorem step_next {s t : State} (h : step s = .next t) :
    (s.events = [] ∧ coreTurn s = .next t) ∨
    (∃ rest, s.events = .core :: rest ∧ coreTurn { s with events := rest } = .next t) ∨
    (∃ op rest, s.events = .host op :: rest ∧ t = hostTurn op { s with events := rest }) := by
  unfold step at h
  split at h
  · exact .inl ⟨by assumption, h⟩
  · exact .inr (.inl ⟨_, by assumption, h⟩)
  · exact .inr (.inr ⟨_, _, by assumption, by simpa using h.symm⟩)

/-- `slice` answers when the range fits its destination (R172). -/
theorem slice_ok {xs : List Byte} {start stop m : Nat} (h : stop - start ≤ m) :
    slice xs start stop m =
      .ok ((xs.drop start).take (stop - start) ++ List.replicate (m - (stop - start)) 0) := by
  rw [slice, if_neg (by omega)]

/-- `MGF1` answers below its bound (R188). -/
theorem mgf1_ok {hash : HashPort} {seed : List Byte} {len : Nat} (h : len < 2 ^ 32 * 32) :
    mgf1 hash seed len = .ok (((mgf1Inputs seed len).flatMap fun x => (hash x).toList).take len) := by
  rw [mgf1, if_pos h]

@[simp] theorem length_leBytes (v len : Nat) : (leBytes v len).length = len := by simp [leBytes]
@[simp] theorem length_serBE (p : Params) (v : Nat) : (serBE p v).length = p.keyLen := by simp [serBE, reverseBytes]

/-- R6: the sizes of EM with and without the skipped byte. -/
theorem emLen_le_keyLen (p : Params) : p.emLen ≤ p.keyLen ∧ p.keyLen ≤ p.emLen + 1 := by
  simp only [Params.emLen, Params.keyLen, Params.emBits, ceilDiv]
  omega

/-- EM after a serialisation, as a byte string. -/
theorem serialize_emBytes (s : State) (r : Reg) : (serialize r s).emBytes = serBE s.params (s.bn r) := by
  have h := Memory.bytes_ofBytes (serBE s.params (s.bn r))
  rw [length_serBE] at h
  exact h

/-- A PSS check that answers leaves its verdict. -/
theorem checkPss_ok {hash : HashPort} {s : State} {v : Bool}
    (h : pssCheck hash s.params s.mhashBytes s.emBytes = .ok v) : checkPss hash s = completeChecked v s := by
  rw [checkPss, h]
  rfl

/-- R22: replacing a limb of an `n`-limb integer leaves an `n`-limb integer. -/
theorem setLimb_lt {w n v i x : Nat} (hv : v < 2 ^ (w * n)) (hi : i < n) (hx : x < 2 ^ w) :
    setLimb w v i x < 2 ^ (w * n) := by
  obtain ⟨k, rfl⟩ : ∃ k, n = (i + 1) + k := ⟨n - (i + 1), by omega⟩
  unfold setLimb
  set P := 2 ^ (w * i)
  have e1 : 2 ^ (w * (i + 1)) = P * 2 ^ w := by rw [Nat.mul_succ, Nat.pow_add]
  have e2 : 2 ^ (w * (i + 1 + k)) = (P * 2 ^ w) * 2 ^ (w * k) := by rw [Nat.mul_add, Nat.pow_add, e1]
  rw [e2] at hv ⊢
  rw [e1]
  have hP : 0 < P := Nat.two_pow_pos _
  have h1 : v / (P * 2 ^ w) < 2 ^ (w * k) := Nat.div_lt_of_lt_mul hv
  have h2 : v % P < P := Nat.mod_lt _ hP
  have h3 : x * P + v % P < P * 2 ^ w := by nlinarith
  have h4 := Nat.mul_le_mul_right (P * 2 ^ w) (Nat.succ_le_of_lt h1)
  rw [Nat.succ_mul, Nat.mul_comm (2 ^ (w * k))] at h4
  omega

/-- R22: a replaced limb is read back, and every other limb reads as before. -/
theorem limb_setLimb {w v i x : Nat} (hx : x < 2 ^ w) (j : Nat) :
    limb w (setLimb w v i x) j = if j = i then x else limb w v j := by
  have hP : 0 < 2 ^ (w * i) := Nat.two_pow_pos _
  have e1 : 2 ^ (w * (i + 1)) = 2 ^ (w * i) * 2 ^ w := by rw [Nat.mul_succ, Nat.pow_add]
  have hlow : v % 2 ^ (w * i) < 2 ^ (w * i) := Nat.mod_lt _ hP
  have hmid : x * 2 ^ (w * i) + v % 2 ^ (w * i) < 2 ^ (w * (i + 1)) := by rw [e1]; nlinarith
  rcases Nat.lt_trichotomy j i with h | rfl | h
  · rw [if_neg (by omega)]
    obtain ⟨k, rfl⟩ : ∃ k, i = j + 1 + k := ⟨i - (j + 1), by omega⟩
    have key : ∀ y, limb w y j = y % 2 ^ (w * (j + 1)) / 2 ^ (w * j) := by
      intro y
      rw [limb, Nat.mul_succ, Nat.pow_add, Nat.mod_mul_right_div_self]
    rw [key, key]
    congr 1
    have d1 : 2 ^ (w * (j + 1)) ∣ 2 ^ (w * (j + 1 + k)) := Nat.pow_dvd_pow 2 (Nat.mul_le_mul_left w (by omega))
    have d2 : 2 ^ (w * (j + 1)) ∣ 2 ^ (w * (j + 1 + k + 1)) := Nat.pow_dvd_pow 2 (Nat.mul_le_mul_left w (by omega))
    unfold setLimb
    rw [Nat.add_mod, Nat.add_mod (_ * _) (_ * _), Nat.mod_eq_zero_of_dvd (d2.mul_left _),
      Nat.mod_eq_zero_of_dvd (d1.mul_left _), Nat.mod_mod_of_dvd _ d1]
    simp
  · rw [if_pos rfl, limb, setLimb, e1]
    have : v / (2 ^ (w * j) * 2 ^ w) * (2 ^ (w * j) * 2 ^ w) + x * 2 ^ (w * j) + v % 2 ^ (w * j) =
        v % 2 ^ (w * j) + 2 ^ (w * j) * (x + 2 ^ w * (v / (2 ^ (w * j) * 2 ^ w))) := by ring
    rw [this, Nat.add_mul_div_left _ _ hP, Nat.div_eq_of_lt hlow, Nat.zero_add, Nat.add_mul_mod_self_left,
      Nat.mod_eq_of_lt hx]
  · rw [if_neg (by omega)]
    obtain ⟨k, rfl⟩ : ∃ k, j = i + 1 + k := ⟨j - (i + 1), by omega⟩
    have key : ∀ y, limb w y (i + 1 + k) = y / 2 ^ (w * (i + 1)) / 2 ^ (w * k) % 2 ^ w := by
      intro y
      rw [limb, Nat.mul_add w (i + 1) k, Nat.pow_add, Nat.div_div_eq_div_mul]
    rw [key, key]
    have : setLimb w v i x / 2 ^ (w * (i + 1)) = v / 2 ^ (w * (i + 1)) := by
      unfold setLimb
      rw [Nat.add_assoc, Nat.add_comm, Nat.add_mul_div_right _ _ (Nat.two_pow_pos _), Nat.div_eq_of_lt hmid, Nat.zero_add]
    rw [this]

/-- R121: a MAC is exact. -/
theorem mac_exact (w a b c d : Nat) : (mac w a b c d).1 * 2 ^ w + (mac w a b c d).2 = a * b + c + d := by
  simp only [mac]
  exact Nat.div_add_mod' _ _

/-- One pass of MACs: the new limbs and the carry hold `as * b + ts + c`. -/
theorem macRow_value (w b : Nat) : ∀ (as ts : List Nat) (c : Nat), as.length = ts.length →
    ofLimbs w (macRow w b as ts c).1 + 2 ^ (w * as.length) * (macRow w b as ts c).2 =
      ofLimbs w as * b + ofLimbs w ts + c ∧ (macRow w b as ts c).1.length = as.length
  | [], [], c, _ => by simp [macRow, ofLimbs]
  | a :: as, t :: ts, c, h => by
    have hlen : as.length = ts.length := by simpa using h
    obtain ⟨ih, il⟩ := macRow_value w b as ts (mac w a b t c).1 hlen
    have hm := mac_exact w a b t c
    refine ⟨?_, by simp [macRow, il]⟩
    have hp : 2 ^ (w * (as.length + 1)) = 2 ^ w * 2 ^ (w * as.length) := by
      rw [Nat.mul_succ, Nat.pow_add, Nat.mul_comm]
    simp only [macRow, ofLimbs, List.length_cons, hp]
    calc _ = (mac w a b t c).2 + 2 ^ w * (ofLimbs w (macRow w b as ts (mac w a b t c).1).1 +
            2 ^ (w * as.length) * (macRow w b as ts (mac w a b t c).1).2) := by ring
      _ = (mac w a b t c).1 * 2 ^ w + (mac w a b t c).2 + 2 ^ w * (ofLimbs w as * b + ofLimbs w ts) := by rw [ih]; ring
      _ = _ := by rw [hm]; ring

end Sys2Proof.Machine
end

