-- ==== Sys2Proof/Laws/Exec.lean ====
section
/-! SUPPORT. What a command can do when it answers a next state: the one inversion lemma of `exec`, guards included. -/

namespace Sys2Proof.Machine

theorem modulusOk_iff {p : Params} {n : Nat} : modulusOk p n = true ↔ ValidModulus p n := by
  simp only [modulusOk, Bool.and_eq_true, decide_eq_true_eq]
  exact ⟨fun ⟨⟨a, b⟩, c⟩ => ⟨a, b, c⟩, fun ⟨a, b, c⟩ => ⟨⟨a, b⟩, c⟩⟩

theorem exponentOk_of {e : Word} (h : e = 3 ∨ e = 65537) : exponentOk e = true := by rcases h with rfl | rfl <;> rfl

theorem exponentOk_not {e : Word} (h : e ≠ 3) (h' : e ≠ 65537) : exponentOk e = false := by
  unfold exponentOk
  rw [beq_eq_false_iff_ne.2 h, beq_eq_false_iff_ne.2 h']
  rfl

/-- R217: on a block that can be built the PSS validator always answers (its slices fit, its mask is short). -/
theorem pssCheck_answers (hash : HashPort) {p : Params} (hl : p.Legal) (mh em) : ∃ b, pssCheck hash p mh em = .ok b := by
  have h1 : p.dbLen < 2 ^ 32 * 32 := by
    obtain ⟨⟨_, h⟩, -⟩ := hl
    simp only [Params.dbLen, Params.emLen, Params.emBits, ceilDiv]; omega
  have h2 := emLen_le_keyLen p
  unfold pssCheck
  split
  · exact ⟨_, rfl⟩
  · rename_i hs
    simp only [hLen, sLen] at hs ⊢
    rw [slice_ok (by omega), slice_ok (by simp only [Params.dbLen, Params.pssOffset, hLen]; omega)]
    simp only [bind, Except.bind, mgf1_ok h1]
    rw [slice_ok (by omega)]
    exact ⟨_, rfl⟩

/-- What a command can do, said once: fault precisely, or complete with its effect. -/
theorem exec_next {i : Instr} {s t : State} (hl : s.params.Legal) (h : exec i s = .next t) :
    (∃ c, c ≠ Cause.maskTooLong ∧ c ≠ .sliceBounds ∧ t = raiseFault c s) ∨
    (i = .nop ∧ t = complete s) ∨
    (i = .modset ∧ ValidModulus s.params s.regN ∧ t = complete s.withContext) ∨
    (∃ ra rb, i = .mul ra rb ∧ t = complete { s with regT := s.bn ra * s.bn rb }) ∨
    (∃ rd, i = .redc rd ∧ rd.isDest = true ∧ s.status.modValid = true ∧ s.regT < s.regN * s.params.radix ∧
      t = complete (s.setBn rd (redc s.params s.np0 s.regN s.regT))) ∨
    (∃ rd ra rb v,
      (i = .mmul rd ra rb ∧ v = montMul s.params s.np0 s.regN (s.bn ra) (s.bn rb) ∨
        i = .modmul rd ra rb ∧ v = modMul s.regN (s.bn ra) (s.bn rb)) ∧
      rd.isDest = true ∧ s.status.modValid = true ∧ s.bn ra < s.regN ∧ s.bn rb < s.regN ∧ t = complete (freeT (s.setBn rd v))) ∨
    (i = .modexp ∧ (s.exp = 3 ∨ s.exp = 65537) ∧ s.status.modValid = true ∧ s.regS < s.regN ∧
      t = complete (exponentiate s)) ∨
    (∃ ra, i = .serbe ra ∧ s.bn ra < 2 ^ (8 * s.params.keyLen) ∧ t = complete (serialize ra s)) ∨
    (i = .mgf1 ∧ ∃ m, m.length ≤ s.params.maskCap ∧ t = complete { s with mask := Memory.ofBytes m }) ∨
    (i = .psschk ∧ ∃ b, t = completeChecked b s) ∨
    (i = .pkcschk ∧ ∃ b, t = completeChecked b s) ∨
    ((i = .verifypss ∨ i = .verifypkcs) ∧ (s.exp = 3 ∨ s.exp = 65537) ∧
      s.status.modValid = true ∧ s.regS < s.regN ∧ ∃ b, t = completeChecked b (serialize .A (exponentiate s))) := by
  have hexp : ∀ c, s.exponentFault = some c → c ≠ Cause.maskTooLong ∧ c ≠ .sliceBounds := by
    intro c hc; unfold State.exponentFault at hc; repeat' split at hc
    all_goals simp at hc; try subst hc; try simp
  have hexp' : s.exponentFault = none → (s.exp = 3 ∨ s.exp = 65537) ∧ s.status.modValid = true ∧ s.regS < s.regN := by
    intro hc; unfold State.exponentFault at hc; split at hc; · simp at hc
    split at hc; · simp at hc
    split at hc; · simp at hc
    rename_i a b c
    refine ⟨?_, by simpa using b, of_decide_eq_true (show s.below .S = true by simpa using c)⟩
    by_contra hh; rw [not_or] at hh; rw [exponentOk_not hh.1 hh.2] at a; simp at a
  have hprod : ∀ rd ra rb c, destinationFault rd (s.productFault ra rb) = some c → c ≠ Cause.maskTooLong ∧ c ≠ .sliceBounds := by
    intro rd ra rb c hc; unfold destinationFault State.productFault at hc; repeat' split at hc
    all_goals simp at hc; try subst hc; try simp
  have hprod' : ∀ rd ra rb, destinationFault rd (s.productFault ra rb) = none → rd.isDest = true ∧ s.status.modValid = true ∧ s.bn ra < s.regN ∧ s.bn rb < s.regN := by
    intro rd ra rb hc; unfold destinationFault State.productFault at hc; split at hc
    case isFalse => simp at hc
    split at hc; · simp at hc
    split at hc; · simp at hc
    rename_i a b c
    have e : s.bn .N = s.regN := rfl
    simpa [State.below, e] using And.intro a (And.intro b c)
  cases i with
  | nop => right; left; exact ⟨rfl, by simpa [exec, execNop] using h.symm⟩
  | modset =>
    simp only [exec, execModset] at h
    rcases guarded_next h with ⟨k, hk, e⟩ | ⟨hk, e⟩
    · left; refine ⟨k, ?_, ?_, e⟩ <;> (unfold State.modulusFault at hk; split at hk <;> simp at hk; subst hk; simp)
    · right; right; left; refine ⟨rfl, ?_, e⟩
      unfold State.modulusFault at hk; split at hk
      · rename_i h; exact modulusOk_iff.1 h
      · simp at hk
  | mul ra rb => right; right; right; left; exact ⟨ra, rb, rfl, by simpa [exec, execMul] using h.symm⟩
  | redc rd =>
    simp only [exec, execRedc] at h
    rcases guarded_next h with ⟨k, hk, e⟩ | ⟨hk, e⟩
    · left; unfold destinationFault State.reduceFault at hk; refine ⟨k, ?_, ?_, e⟩ <;> (repeat' split at hk) <;> simp at hk <;> subst hk <;> simp
    · right; right; right; right; left; refine ⟨rd, rfl, ?_⟩
      unfold destinationFault State.reduceFault at hk; split at hk
      case isFalse => simp at hk
      split at hk; · simp at hk
      split at hk; · simp at hk
      rename_i a b c
      exact ⟨a, by simpa using b, by omega, e⟩
  | mmul rd ra rb =>
    simp only [exec, execMmul] at h
    rcases guarded_next h with ⟨k, hk, e⟩ | ⟨hk, e⟩
    · exact .inl ⟨k, (hprod _ _ _ _ hk).1, (hprod _ _ _ _ hk).2, e⟩
    · obtain ⟨a, b, c, d⟩ := hprod' _ _ _ hk
      iterate 5 right
      left; exact ⟨rd, ra, rb, _, .inl ⟨rfl, rfl⟩, a, b, c, d, e⟩
  | modmul rd ra rb =>
    simp only [exec, execModmul] at h
    rcases guarded_next h with ⟨k, hk, e⟩ | ⟨hk, e⟩
    · exact .inl ⟨k, (hprod _ _ _ _ hk).1, (hprod _ _ _ _ hk).2, e⟩
    · obtain ⟨a, b, c, d⟩ := hprod' _ _ _ hk
      iterate 5 right
      left; exact ⟨rd, ra, rb, _, .inr ⟨rfl, rfl⟩, a, b, c, d, e⟩
  | modexp =>
    simp only [exec, execModexp] at h
    rcases guarded_next h with ⟨k, hk, e⟩ | ⟨hk, e⟩
    · exact .inl ⟨k, (hexp _ hk).1, (hexp _ hk).2, e⟩
    · iterate 6 right
      left; obtain ⟨a, b, c⟩ := hexp' hk; exact ⟨rfl, a, b, c, e⟩
  | serbe ra =>
    simp only [exec, execSerbe] at h
    rcases guarded_next h with ⟨k, hk, e⟩ | ⟨hk, e⟩
    · left; unfold State.serializeFault at hk; refine ⟨k, ?_, ?_, e⟩ <;> (repeat' split at hk) <;> simp at hk <;> subst hk <;> simp
    · iterate 7 right
      left; refine ⟨ra, rfl, ?_, e⟩
      unfold State.serializeFault at hk; split at hk
      · simp at hk
      · omega
  | mgf1 =>
    simp only [exec, execMgf1, execMgf1On] at h
    rcases guarded_next h with ⟨k, hk, e⟩ | ⟨hk, e⟩
    · left; unfold State.maskFault at hk; refine ⟨k, ?_, ?_, e⟩ <;> (repeat' split at hk) <;> simp at hk <;> subst hk <;> simp
    · iterate 8 right
      left; refine ⟨rfl, ?_⟩
      have hl : s.mlen.toNat < 2 ^ 32 * 32 := by have := s.mlen.isLt; omega
      rw [fillMask, mgf1_ok hl] at e
      refine ⟨_, ?_, e⟩
      unfold State.maskFault at hk; split at hk
      · simp at hk
      · rw [List.length_take]; omega
  | psschk =>
    iterate 9 right
    left; refine ⟨rfl, ?_⟩
    obtain ⟨b, hb⟩ := pssCheck_answers sha256 hl s.mhashBytes s.emBytes
    exact ⟨b, by simpa [exec, execPsschk, execPsschkOn, checkPss, hb, finishCheck] using h.symm⟩
  | pkcschk =>
    iterate 10 right
    left; exact ⟨rfl, _, by simpa [exec, execPkcschk, checkPkcs] using h.symm⟩
  | verifypss =>
    simp only [exec, execVerifypss, execVerifypssOn] at h
    rcases guarded_next h with ⟨k, hk, e⟩ | ⟨hk, e⟩
    · exact .inl ⟨k, (hexp _ hk).1, (hexp _ hk).2, e⟩
    · iterate 11 right
      obtain ⟨a, b, c⟩ := hexp' hk
      obtain ⟨v, hv⟩ := pssCheck_answers sha256 hl (serialize .A (exponentiate s)).mhashBytes (serialize .A (exponentiate s)).emBytes
      exact ⟨.inl rfl, a, b, c, v, by rw [e]; exact checkPss_ok hv⟩
  | verifypkcs =>
    simp only [exec, execVerifypkcs] at h
    rcases guarded_next h with ⟨k, hk, e⟩ | ⟨hk, e⟩
    · exact .inl ⟨k, (hexp _ hk).1, (hexp _ hk).2, e⟩
    · iterate 11 right
      obtain ⟨a, b, c⟩ := hexp' hk
      exact ⟨.inr rfl, a, b, c, _, e⟩

end Sys2Proof.Machine
end

