-- ==== Sys2Proof/Laws/Montgomery.lean ====
section
/-! SUPPORT. What the functions of the Montgomery units compute: NPrime0 (R123), the reducer (R126, R127), and Rinv. -/

namespace Sys2Proof.Machine

/-- R123: bit by bit, `nPrimeBits n k` is the negative inverse of an odd `n` modulo `2^k`. -/
theorem nPrimeBits_spec {n : Nat} (hn : n % 2 = 1) : ∀ k, nPrimeBits n k < 2 ^ k ∧ (nPrimeBits n k * n + 1) % 2 ^ k = 0
  | 0 => by simp [nPrimeBits]
  | k + 1 => by
    obtain ⟨hlt, hdvd⟩ := nPrimeBits_spec hn k
    set x := nPrimeBits n k with hx
    have hpow : 2 ^ (k + 1) = 2 ^ k * 2 := Nat.pow_succ 2 k
    simp only [nPrimeBits, ← hx]
    split
    · exact ⟨by omega, by assumption⟩
    · refine ⟨by omega, ?_⟩
      obtain ⟨q, hq⟩ := Nat.dvd_of_mod_eq_zero hdvd
      have hodd : q % 2 = 1 := by
        by_contra hcon
        have : q % 2 = 0 := by omega
        obtain ⟨r, rfl⟩ := Nat.dvd_of_mod_eq_zero this
        have : (x * n + 1) % 2 ^ (k + 1) = 0 := by
          rw [hq, hpow, ← Nat.mul_assoc]
          exact Nat.mul_mod_right _ _
        contradiction
      have hsum : (x + 2 ^ k) * n + 1 = 2 ^ k * (q + n) := by
        calc (x + 2 ^ k) * n + 1 = (x * n + 1) + 2 ^ k * n := by ring
          _ = 2 ^ k * (q + n) := by rw [hq]; ring
      rw [hsum, hpow]
      obtain ⟨r, hr⟩ : ∃ r, q + n = 2 * r := ⟨(q + n) / 2, by omega⟩
      rw [hr, ← Nat.mul_assoc]
      exact Nat.mul_mod_right _ _

theorem limb_zero (w v : Nat) : limb w v 0 = v % 2 ^ w := by simp [limb]

/-- R123: what MODSET writes into NP0. -/
theorem nPrime0_spec {p : Params} {n : Nat} (hw : 1 ≤ p.limbBits) (hn : n % 2 = 1) : IsNPrime0 p n (nPrime0 p n) := by
  have hpos : 0 < 2 ^ p.limbBits := Nat.two_pow_pos _
  have h2 : 2 ∣ 2 ^ p.limbBits := dvd_pow_self 2 (by omega)
  have hodd : limb p.limbBits n 0 % 2 = 1 := by rw [limb_zero, Nat.mod_mod_of_dvd _ h2, hn]
  obtain ⟨hlt, hz⟩ := nPrimeBits_spec hodd p.limbBits
  refine ⟨hlt, ?_⟩
  have hcong : (nPrime0 p n * n + 1) % 2 ^ p.limbBits = 0 := by
    rw [← hz, limb_zero]
    simp [nPrime0, limb_zero, Nat.add_mod, Nat.mul_mod]
  set M := 2 ^ p.limbBits with hM
  have hd := Nat.dvd_of_mod_eq_zero hcong
  have hlt' := Nat.mod_lt (nPrime0 p n * n) hpos
  have hdm := Nat.div_add_mod (nPrime0 p n * n) M
  have : M ∣ (nPrime0 p n * n) % M + 1 := by
    have : nPrime0 p n * n + 1 = M * (nPrime0 p n * n / M) + (nPrime0 p n * n % M + 1) := by omega
    rw [this] at hd
    exact (Nat.dvd_add_right (Nat.dvd_mul_right M _)).1 hd
  have := Nat.le_of_dvd (by omega) this
  omega

/-- R126 (a): a round of the reducer divides exactly. -/
theorem redc_round_exact {w np0 n : Nat} (h : np0 * n % 2 ^ w = 2 ^ w - 1) (t : Nat) :
    (t + t % 2 ^ w * np0 % 2 ^ w * n) % 2 ^ w = 0 := by
  have hpos : 0 < 2 ^ w := Nat.two_pow_pos w
  have h1 : (np0 * n + 1) % 2 ^ w = 0 := by
    rw [Nat.add_mod, h]
    rcases Nat.lt_or_ge 1 (2 ^ w) with hw | hw
    · rw [Nat.mod_eq_of_lt hw, Nat.sub_add_cancel hpos, Nat.mod_self]
    · have : 2 ^ w = 1 := by omega
      rw [this]
  have h2 : (t + t % 2 ^ w * np0 % 2 ^ w * n) % 2 ^ w = (t * (np0 * n + 1)) % 2 ^ w := by
    have e : t * (np0 * n + 1) = t + t * np0 * n := by ring
    rw [e]
    simp [Nat.add_mod, Nat.mul_mod]
  rw [h2, Nat.mul_mod, h1, Nat.mul_zero, Nat.zero_mod]

/-- R126 (b): `k` rounds turn `t` into `(t + M*n) / 2^(w*k)`, exactly, for an `M` below `2^(w*k)`. -/
theorem redcRounds_spec {w np0 n : Nat} (h : np0 * n % 2 ^ w = 2 ^ w - 1) :
    ∀ k t, ∃ M, M < 2 ^ (w * k) ∧ redcRounds w np0 n k t * 2 ^ (w * k) = t + M * n
  | 0, t => ⟨0, by simp, by simp [redcRounds]⟩
  | k + 1, t => by
    set m := t % 2 ^ w * np0 % 2 ^ w with hm
    obtain ⟨M, hM, hrec⟩ := redcRounds_spec h k ((t + m * n) / 2 ^ w)
    have hexact : (t + m * n) / 2 ^ w * 2 ^ w = t + m * n :=
      Nat.div_mul_cancel (Nat.dvd_of_mod_eq_zero (redc_round_exact h t))
    have hmlt : m < 2 ^ w := Nat.mod_lt _ (Nat.two_pow_pos w)
    have hp : 2 ^ (w * (k + 1)) = 2 ^ (w * k) * 2 ^ w := by rw [Nat.mul_succ, Nat.pow_add]
    refine ⟨m + M * 2 ^ w, ?_, ?_⟩
    · rw [hp]
      have : (M + 1) * 2 ^ w ≤ 2 ^ (w * k) * 2 ^ w := Nat.mul_le_mul_right _ hM
      nlinarith
    · simp only [redcRounds, ← hm]
      rw [hp, ← Nat.mul_assoc, hrec, Nat.add_mul, hexact]
      ring

/-- R126 (c), R127: for `t < n * 2^(w*k)` the reducer answers the value below `n` that is `t` divided by the radix
modulo `n`. -/
theorem redc_spec {p : Params} {np0 n t : Nat} (h : np0 * n % 2 ^ p.limbBits = 2 ^ p.limbBits - 1)
    (ht : t < n * p.radix) : redc p np0 n t < n ∧ redc p np0 n t * p.radix % n = t % n := by
  obtain ⟨M, hM, hrec⟩ := redcRounds_spec h p.numLimbs t
  set u := redcRounds p.limbBits np0 n p.numLimbs t with hu
  have hR : 2 ^ (p.limbBits * p.numLimbs) = p.radix := rfl
  rw [hR] at hM hrec
  have hu2 : u < 2 * n := by
    have h1 : u * p.radix < (2 * n) * p.radix := by
      rw [hrec]
      have : M * n ≤ p.radix * n := Nat.mul_le_mul_right n hM.le
      nlinarith
    exact Nat.lt_of_mul_lt_mul_right h1
  have hmod : u * p.radix % n = t % n := by rw [hrec, Nat.add_mul_mod_self_right]
  unfold redc subtractOnce
  rw [← hu]
  split
  · refine ⟨by omega, ?_⟩
    rw [← hmod]
    obtain ⟨d, hd⟩ : ∃ d, u = n + d := ⟨u - n, by omega⟩
    rw [hd, Nat.add_sub_cancel_left, Nat.add_mul, Nat.mul_comm n, Nat.add_comm, Nat.add_mul_mod_self_right]
  · exact ⟨by omega, hmod⟩

/-- The radix is prime to an odd modulus. -/
theorem radix_coprime {p : Params} {n : Nat} (hn : n % 2 = 1) : Nat.Coprime p.radix n := by
  have : Nat.Coprime 2 n := (Nat.coprime_two_left).2 (Nat.odd_iff.2 hn)
  exact Nat.Coprime.pow_left _ this

/-- Two values below an odd modulus that agree after multiplication by the radix are equal. -/
theorem eq_of_radix_mul {p : Params} {n x y : Nat} (hn : n % 2 = 1) (hx : x < n) (hy : y < n)
    (h : x * p.radix % n = y * p.radix % n) : x = y := by
  have hc : Nat.gcd n p.radix = 1 := (radix_coprime (p := p) hn).symm
  have : x ≡ y [MOD n] := Nat.ModEq.cancel_right_of_coprime hc h
  exact this.eq_of_lt_of_lt hx hy

/-- R127, R129 in terms of Rinv: the value below `n` with `x * R = t (mod n)` is `t * Rinv mod n`. -/
theorem eq_mul_rInv {p : Params} {n x t ri : Nat} (hn : n % 2 = 1) (hx : x < n)
    (h : x * p.radix % n = t % n) (hri : IsRInv p n ri) : x = t * ri % n := by
  have hpos : 0 < n := by omega
  apply eq_of_radix_mul (p := p) hn hx (Nat.mod_lt _ hpos)
  rw [h, Nat.mul_mod, Nat.mod_mod, ← Nat.mul_mod, Nat.mul_assoc, Nat.mul_comm ri, Nat.mul_mod, hri.inv]
  simp

end Sys2Proof.Machine
end

