-- ==== Sys2Proof/Laws/PerInstr.lean ====
section
/-! SUPPORT. Facts about every command as syntax, one lemma for each constructor of Instr. -/

/-- The row of the opcode table (R94) with the command's mnemonic has its opcode, and the command's word matches the row
and no other. -/
def Sys2Proof.Laws.TableRow.Statement (i : Sys2Proof.Instr) : Prop :=
  ∃ row ∈ Sys2Proof.opcodeTable, row.mnemonic = Sys2Proof.Machine.mnemonic i ∧
    (Sys2Proof.encode i).opcode = row.opcode ∧
    ∀ other ∈ Sys2Proof.opcodeTable, Sys2Proof.encode i &&& other.mask = other.pattern ↔ other = row

namespace Sys2Proof.Laws.TableRow

open Sys2Proof

theorem nop : Statement .nop := ⟨⟨"NOP", 0x00, .Z, 0xFFFFFFFF, 0x00000000⟩, by decide⟩
theorem modset : Statement .modset := ⟨⟨"MODSET", 0x01, .Z, 0xFFFFFFFF, 0x00000001⟩, by decide⟩
theorem mul (ra rb : Reg) : Statement (.mul ra rb) :=
  ⟨⟨"MUL", 0x10, .AB, 0xFFF00FFF, 0x00000010⟩, by cases ra <;> cases rb <;> decide⟩
theorem redc (rd : Reg) : Statement (.redc rd) :=
  ⟨⟨"REDC", 0x11, .D, 0xFFFFF0FF, 0x00000011⟩, by cases rd <;> decide⟩
theorem mmul (rd ra rb : Reg) : Statement (.mmul rd ra rb) :=
  ⟨⟨"MMUL", 0x12, .DAB, 0xFFF000FF, 0x00000012⟩, by cases rd <;> cases ra <;> cases rb <;> decide⟩
theorem modmul (rd ra rb : Reg) : Statement (.modmul rd ra rb) :=
  ⟨⟨"MODMUL", 0x13, .DAB, 0xFFF000FF, 0x00000013⟩, by cases rd <;> cases ra <;> cases rb <;> decide⟩
theorem modexp : Statement .modexp := ⟨⟨"MODEXP", 0x20, .Z, 0xFFFFFFFF, 0x00000020⟩, by decide⟩
theorem serbe (ra : Reg) : Statement (.serbe ra) :=
  ⟨⟨"SERBE", 0x30, .A, 0xFFFF0FFF, 0x00000030⟩, by cases ra <;> decide⟩
theorem mgf1 : Statement .mgf1 := ⟨⟨"MGF1", 0x40, .Z, 0xFFFFFFFF, 0x00000040⟩, by decide⟩
theorem psschk : Statement .psschk := ⟨⟨"PSSCHK", 0x50, .Z, 0xFFFFFFFF, 0x00000050⟩, by decide⟩
theorem pkcschk : Statement .pkcschk := ⟨⟨"PKCSCHK", 0x51, .Z, 0xFFFFFFFF, 0x00000051⟩, by decide⟩
theorem verifypss : Statement .verifypss := ⟨⟨"VERIFYPSS", 0x60, .Z, 0xFFFFFFFF, 0x00000060⟩, by decide⟩
theorem verifypkcs : Statement .verifypkcs := ⟨⟨"VERIFYPKCS", 0x61, .Z, 0xFFFFFFFF, 0x00000061⟩, by decide⟩

end Sys2Proof.Laws.TableRow
end

