-- ==== Sys2Proof/Tests/Slice0.lean ====
section
/-! SUPPORT. Tests, each one step on a small state, with expected values from spec/95_test_vectors.md (the section is
named); then, for every statement with hypotheses, a concrete state and operands that meet them (`witness_...`). -/

namespace Sys2Proof.Tests

open Sys2Proof Sys2Proof.Machine

/-- What holds of the state that an outcome goes on to; false of a stop. -/
def leads (o : Host.Outcome State Fault Refusal) (ok : State → Bool) : Bool :=
  match o with
  | .next t => ok t
  | .fault _ => false
  | .refused _ => false

/-- The instance (16,8) of the vectors. -/
def p16 : Params := { modBits := 16, limbBits := 8, maskCap := 64 }

/-- Instance (16,8) after `.bn N, 0xF123`, `MODSET`, with operands in S, A, B and T, and EXP = 3. -/
def small : State :=
  { State.resetOf p16 with
    regN := 0xF123, regRR := 0x80CB, np0 := 0x75, regS := 0x1234, regA := 0x1234, regB := 0x5678, regT := 0x12345678
    exp := 3
    status := { busy := false, done := true, fault := false, modValid := true, resValid := false } }

/-- `small` with the command word `w` accepted. -/
def busyWith (w : Word) : State := acceptCommand w small

/-- `small` after a fault of MODEXP. -/
def faulted : State := raiseFault .invalidExponent (busyWith 0x20)

/-- The SHA-256 digests of the two messages of the vectors. -/
def h1 : List Byte :=
  [0xdc, 0x9b, 0xe5, 0x8f, 0x7a, 0x85, 0x37, 0xd7, 0x4b, 0x2c, 0x84, 0x6f, 0x39, 0x21, 0xf8, 0x54] ++
  [0xd5, 0xaa, 0xc1, 0x60, 0xfd, 0x39, 0x7c, 0x0d, 0xfb, 0x2a, 0x5c, 0x93, 0x69, 0xac, 0xe9, 0x55]
@[inherit_doc h1] def h2 : List Byte :=
  [0x5b, 0xcf, 0x2e, 0x3c, 0x16, 0x99, 0xd9, 0x90, 0x02, 0x7f, 0xe0, 0x8f, 0xb5, 0x2d, 0x20, 0x78] ++
  [0x7a, 0x83, 0xa6, 0x4f, 0xa6, 0xb7, 0x2b, 0x9e, 0x74, 0x69, 0x49, 0xcf, 0xc4, 0x4d, 0x21, 0x05]

/-! ### Well-formedness: the ill-formed term of each check -/

theorem test_redc_into_modulus_ill_formed : (Instr.redc .N).wellFormed = false := by decide
theorem test_mmul_into_signature_ill_formed : (Instr.mmul .S .A .B).wellFormed = false := by decide
theorem test_modmul_into_one_ill_formed : (Instr.modmul .ONE .A .B).wellFormed = false := by decide
theorem test_mmul_into_rr_ill_formed : (Instr.mmul .RR .A .B).wellFormed = false := by decide
theorem test_mmul_a_a_a_well_formed : (Instr.mmul .A .A .A).wellFormed = true := by decide

/-! ### Decoding: words written out field by field (zero, rb, ra, rd, opcode), R90, R94, vectors 2.1 -/

theorem test_decode_nop : decodeTableWord 32 0b000000000000_0000_0000_0000_00000000 = some .nop := by decide
theorem test_decode_modset : decodeTableWord 32 0b000000000000_0000_0000_0000_00000001 = some .modset := by decide
theorem test_decode_mul : decodeTableWord 32 0b000000000000_0101_0100_0000_00010000 = some (.mul .A .B) := by decide
theorem test_decode_redc : decodeTableWord 32 0b000000000000_0000_0000_0110_00010001 = some (.redc .C) := by decide
theorem test_decode_mmul : decodeTableWord 32 0b000000000000_0001_0100_0101_00010010 = some (.mmul .B .A .RR) := by decide
theorem test_decode_modmul : decodeTableWord 32 0b000000000000_0101_0100_0110_00010011 = some (.modmul .C .A .B) := by decide
theorem test_decode_modexp : decodeTableWord 32 0b000000000000_0000_0000_0000_00100000 = some .modexp := by decide
theorem test_decode_serbe : decodeTableWord 32 0b000000000000_0000_0110_0000_00110000 = some (.serbe .C) := by decide
theorem test_decode_mgf1 : decodeTableWord 32 0b000000000000_0000_0000_0000_01000000 = some .mgf1 := by decide
theorem test_decode_psschk : decodeTableWord 32 0b000000000000_0000_0000_0000_01010000 = some .psschk := by decide
theorem test_decode_pkcschk : decodeTableWord 32 0b000000000000_0000_0000_0000_01010001 = some .pkcschk := by decide
theorem test_decode_verifypss : decodeTableWord 32 0b000000000000_0000_0000_0000_01100000 = some .verifypss := by decide
theorem test_decode_verifypkcs : decodeTableWord 32 0b000000000000_0000_0000_0000_01100001 = some .verifypkcs := by decide
/-- The table gives MUL its 32 bits with the operands 0: `MUL N, N`. -/
theorem test_decode_mul_n_n : decodeTableWord 32 0x10 = some (.mul .N .N) := by decide

theorem test_illegal_opcode : decode 0x000000FF = .error .unassignedOpcode := rfl
theorem test_illegal_bit_20 : decode 0x00100000 = .error .reservedBits := rfl
theorem test_illegal_modexp_unused_rd : decode 0x00000120 = .error .unusedField := rfl
theorem test_illegal_redc_unused_ra : decode 0x00004411 = .error .unusedField := rfl
theorem test_illegal_mmul_rd_rr : decode 0x00012112 = .error .badDestination := rfl
theorem test_illegal_mmul_rd_7 : decode 0x00054712 = .error .badDestination := rfl
theorem test_illegal_mmul_rb_8 : decode 0x00084612 = .error .badSource := rfl
theorem test_illegal_serbe_ra_7 : decode 0x00007030 = .error .badSource := rfl

/-! ### The commands, at most two tests each -/

/-- 2.11: NOP after reset gives STATUS = 0x02. -/
theorem test_nop : leads (exec .nop (acceptCommand 0 State.reset)) (fun t => statusWord t.status == 0x02) = true := by decide

/-- 2.3: N = 0xF123 gives NP0 = 0x75, RR = 0x80CB, STATUS = 0x0A. -/
theorem test_modset : leads (exec .modset (acceptCommand 1 { State.resetOf p16 with regN := 0xF123 }))
    (fun t => t.np0 == 0x75 && t.regRR == 0x80CB && statusWord t.status == 0x0A) = true := by decide +kernel
/-- 2.3: the even 0xF122 faults, FAULTCODE = 0x0102, STATUS = 0x04, and N keeps it. -/
theorem test_modset_even : leads (exec .modset (acceptCommand 1 { State.resetOf p16 with regN := 0xF122 }))
    (fun t => faultCodeWord t.faultCode == 0x0102 && statusWord t.status == 0x04 && t.regN == 0xF122 && t.np0 == 0) = true := by
  decide +kernel

/-- 2.4: T = 0x06260060. -/
theorem test_mul : leads (exec (.mul .A .B) (busyWith 0x00054010)) (fun t => t.regT == 0x06260060) = true := by decide +kernel
/-- 2.4: MUL before MODSET is legal. -/
theorem test_mul_without_modulus : leads (exec (.mul .C .C) (acceptCommand 0x00066010 { State.resetOf p16 with regC := 0xFFFF }))
    (fun t => t.regT == 0xFFFE0001 && statusWord t.status == 0x02) = true := by decide +kernel

/-- 2.4: T = 0x12345678 gives 0x4B84, T unchanged. -/
theorem test_redc : leads (exec (.redc .A) (busyWith 0x00000411))
    (fun t => t.regA == 0x4B84 && t.regT == 0x12345678 && t.regB == 0x5678) = true := by decide +kernel
/-- 2.4: T = N*R faults, FAULTCODE = 0x1104, A unchanged. -/
theorem test_redc_out_of_range : leads (exec (.redc .A) { busyWith 0x00000411 with regT := 0xF1230000 })
    (fun t => faultCodeWord t.faultCode == 0x1104 && t.regA == 0x1234 && statusWord t.status == 0x0C) = true := by decide +kernel

/-- 2.4: MMUL C, A, B gives 0x89E7. -/
theorem test_mmul : leads (exec (.mmul .C .A .B) (busyWith 0x00054612))
    (fun t => t.regC == 0x89E7 && t.regA == 0x1234 && statusWord t.status == 0x0A) = true := by decide +kernel
/-- 2.4: (N-1)*(N-1), the destination also both sources: the final subtraction is made, 0x361F. -/
theorem test_mmul_final_subtraction : leads (exec (.mmul .A .A .A) { busyWith 0x00044412 with regA := 0xF122 })
    (fun t => t.regA == 0x361F) = true := by decide +kernel

/-- 2.4: MODMUL C, A, B gives 0x04EB. -/
theorem test_modmul : leads (exec (.modmul .C .A .B) (busyWith 0x00054613)) (fun t => t.regC == 0x04EB) = true := by decide +kernel
/-- 2.4: MODMUL before MODSET faults ModulusNotSet, 0x1303. -/
theorem test_modmul_without_modulus : leads (exec (.modmul .C .A .B) (acceptCommand 0x00054613 (State.resetOf p16)))
    (fun t => faultCodeWord t.faultCode == 0x1303) = true := by decide +kernel

/-- 2.5: S = 0x1234, EXP = 65537 gives A = 0x0004, S unchanged. -/
theorem test_modexp_65537 : leads (exec .modexp { busyWith 0x20 with exp := 65537 })
    (fun t => t.regA == 0x0004 && t.regS == 0x1234 && statusWord t.status == 0x0A) = true := by decide +kernel
/-- 2.12: after reset, EXP = 0 reports InvalidExponent before ModulusNotSet, 0x2001. -/
theorem test_modexp_priority : leads (exec .modexp (acceptCommand 0x20 (State.resetOf p16)))
    (fun t => faultCodeWord t.faultCode == 0x2001 && statusWord t.status == 0x04) = true := by decide +kernel

/-- 2.6: (17,8), 0x1A2B2 gives EM = 01 A2 B2. -/
theorem test_serbe : leads (exec (.serbe .A)
      (acceptCommand 0x4030 { State.resetOf { modBits := 17, limbBits := 8, maskCap := 64 } with regA := 0x1A2B2 }))
    (fun t => t.emBytes == [0x01, 0xA2, 0xB2]) = true := by decide +kernel
/-- 2.6: (16,9), 0x10000 faults OperandRange, 0x3004, EM unchanged. -/
theorem test_serbe_out_of_range : leads (exec (.serbe .A)
      (acceptCommand 0x4030 { State.resetOf { modBits := 16, limbBits := 9, maskCap := 64 } with regA := 0x10000 }))
    (fun t => faultCodeWord t.faultCode == 0x3004 && t.emBytes == [0, 0] && statusWord t.status == 0x04) = true := by decide +kernel

/-- 2.7, P6: SEED = h2, MLEN = 33: the bytes of the first call end in BE, byte 32 is 93, byte 33 is 0. -/
theorem test_mgf1 : leads (exec .mgf1 (acceptCommand 0x40 { State.resetOf p16 with seed := Memory.ofBytes h2, mlen := 33 }))
    (fun t => t.mask.read 0 == 0x6a && t.mask.read 31 == 0xbe && t.mask.read 32 == 0x93 && t.mask.read 33 == 0) = true := by
  decide +kernel
/-- 2.7: MLEN = 65 faults BufferCapacity, 0x4008. -/
theorem test_mgf1_capacity : leads (exec .mgf1 (acceptCommand 0x40 { State.resetOf p16 with mlen := 65 }))
    (fun t => faultCodeWord t.faultCode == 0x4008) = true := by decide +kernel

/-- 2.10, vector PSS-1. -/
def emPss1 : List Byte :=
  [0x3e, 0x01, 0x22, 0x54, 0x65, 0x1e, 0x71, 0x09, 0xc8, 0xdf, 0x42, 0x48, 0x0a, 0x57, 0xdc, 0xf6] ++
  [0xed, 0x19, 0xa8, 0xd2, 0x9a, 0xf9, 0x7a, 0x31, 0x45, 0x45, 0x41, 0x6e, 0x25, 0x95, 0x79, 0x81] ++
  [0xc8, 0x9e, 0xe3, 0x54, 0x81, 0x6e, 0x5e, 0xfb, 0x21, 0xe5, 0x88, 0x84, 0x93, 0x26, 0xef, 0x0f] ++
  [0x11, 0xb6, 0xa5, 0x91, 0x2e, 0xde, 0xfb, 0xfd, 0x31, 0xbf, 0x2b, 0xe6, 0x6b, 0x52, 0xca, 0xe2] ++
  [0x78, 0x1f, 0xed, 0xc9, 0xe3, 0xe3, 0x40, 0xc7, 0x84, 0x0a, 0xe5, 0x2c, 0x7a, 0xd2, 0xca, 0xb0] ++
  [0x25, 0x5b, 0x57, 0x29, 0x62, 0xc0, 0x72, 0x3a, 0xdd, 0x97, 0xc7, 0xd7, 0x86, 0x7c, 0x9f, 0xe9] ++
  [0x1b, 0xf2, 0xa7, 0x95, 0xb0, 0x3e, 0x5e, 0x54, 0x77, 0x5a, 0x3e, 0xf4, 0x52, 0x5b, 0xb0, 0x2a] ++
  [0x27, 0xf1, 0x03, 0x09, 0xc2, 0xeb, 0xd5, 0xb4, 0xd2, 0xa4, 0x46, 0x0c, 0xf9, 0xcb, 0x88, 0xbc]

/-- 2.10: PSS-1 gives RESULT = 1. -/
theorem test_psschk : leads (exec .psschk (acceptCommand 0x50
      { State.resetOf { modBits := 1024, limbBits := 120, maskCap := 64 } with
        em := Memory.ofBytes emPss1, mhash := Memory.ofBytes h2 }))
    (fun t => t.verified && statusWord t.status == 0x12) = true := by decide +kernel
/-- 2.10: on (16,8), straight after reset, STATUS = 0x12 and RESULT = 0. -/
theorem test_psschk_short : leads (exec .psschk (acceptCommand 0x50 (State.resetOf p16)))
    (fun t => !t.verified && statusWord t.status == 0x12) = true := by decide +kernel

/-- 2.9, vector PKCS-1 (KEY_LEN = 64). -/
def emPkcs1 : List Byte :=
  [0x00, 0x01, 0xff, 0xff, 0xff, 0xff, 0xff, 0xff, 0xff, 0xff, 0xff, 0xff, 0x00, 0x30, 0x31, 0x30] ++
  [0x0d, 0x06, 0x09, 0x60, 0x86, 0x48, 0x01, 0x65, 0x03, 0x04, 0x02, 0x01, 0x05, 0x00, 0x04, 0x20] ++ h1

/-- The instance (512,64) with `em` in EM and h1 in MHASH. -/
def withEm (em : List Byte) : State :=
  { State.resetOf { modBits := 512, limbBits := 64, maskCap := 64 } with em := Memory.ofBytes em, mhash := Memory.ofBytes h1 }

/-- 2.9: PKCS-1 gives RESULT = 1. -/
theorem test_pkcschk : leads (exec .pkcschk (acceptCommand 0x51 (withEm emPkcs1)))
    (fun t => t.verified && statusWord t.status == 0x12) = true := by decide +kernel
/-- 2.9: EM[11], the last padding byte, changed gives 0. -/
theorem test_pkcschk_padding : leads (exec .pkcschk (acceptCommand 0x51 (withEm (emPkcs1.set 11 0xFE))))
    (fun t => !t.verified && t.status.resValid) = true := by decide +kernel

/-- 2.5, R201: on (16,8) S = 0x1234, EXP = 3: A = 0xD864, EM = D8 64 and RESULT = 0 all the same. -/
theorem test_verifypss : leads (exec .verifypss (busyWith 0x60))
    (fun t => t.regA == 0xD864 && t.emBytes == [0xD8, 0x64] && !t.verified && statusWord t.status == 0x1A) = true := by
  decide +kernel
/-- 2.12: S = N faults OperandRange, A unchanged. -/
theorem test_verifypss_out_of_range : leads (exec .verifypss { busyWith 0x60 with regS := 0xF123 })
    (fun t => faultCodeWord t.faultCode == 0x6004 && t.regA == 0x1234 && statusWord t.status == 0x0C) = true := by decide +kernel

/-- Key K512 (2.8) with S(PKCS-1), MHASH = h1, EXP = 65537 (2.11); VERIFYPKCS reads neither RR nor NP0 of the model. -/
def k512 : State :=
  { withEm [] with
    regN := 0x849e97202e87a5440e6ec30c83d97163491ea28264c1f7a327c4fcaaa4ab88f3ba084cd863c106b093f163f0ea0915057a85fcac58545782704803c15d813813
    regS := 0x0d2869084a288b557588f143f389bb36893f3dfd247d6322953d72a4423497b893d4afa868f56c2297cbdb5ac30648b5113afc8b28d1298f014d18dc8827073b
    exp := 65537
    status := { busy := true, done := false, fault := false, modValid := true, resValid := false } }

/-- 2.11: VERIFYPKCS gives RESULT = 1, STATUS = 0x1A and the EM of PKCS-1. -/
theorem test_verifypkcs : leads (exec .verifypkcs k512)
    (fun t => t.verified && t.emBytes == emPkcs1 && statusWord t.status == 0x1A) = true := by decide +kernel
/-- 2.11: EXP = 3 gives RESULT = 0; EM starts 36 9A 06 D9. -/
theorem test_verifypkcs_wrong_exponent : leads (exec .verifypkcs { k512 with exp := 3 })
    (fun t => !t.verified && t.emBytes.take 4 == [0x36, 0x9A, 0x06, 0xD9]) = true := by decide +kernel

/-! ### The functions on their own -/

/-- 2.2. -/
theorem test_mac : mac 8 0x12 0x34 0x56 0x78 = (0x04, 0x76) ∧ mac 8 0xFF 0xFF 0xFF 0xFF = (0xFF, 0xFF) := by decide
/-- 2.4, the trace of the word-serial sequence: after the two passes of i = 0, t = 87 DB 00. -/
theorem test_montgomery_iteration :
    montIteration 8 0x75 (limbs 8 2 0x1234) (limbs 8 2 0xF123) ⟨[0, 0], 0⟩ 0x78 = ⟨[0x87, 0xDB], 0⟩ := by decide +kernel
/-- 2.7: SHA256("abc"). -/
theorem test_sha256_abc : (sha256 [0x61, 0x62, 0x63]).toList =
    [0xba, 0x78, 0x16, 0xbf, 0x8f, 0x01, 0xcf, 0xea, 0x41, 0x41, 0x40, 0xde, 0x5d, 0xae, 0x22, 0x23] ++
    [0xb0, 0x03, 0x61, 0xa3, 0x96, 0x17, 0x7a, 0x9c, 0xb4, 0x10, 0xff, 0x61, 0xf2, 0x00, 0x15, 0xad] := by decide +kernel
/-- 2.6. -/
theorem test_slice : slice [0x10, 0x11, 0x12, 0x13, 0x14, 0x15, 0x16, 0x17] 2 5 5 = .ok [0x12, 0x13, 0x14, 0, 0] ∧
    slice [0x10, 0x11, 0x12, 0x13, 0x14, 0x15, 0x16, 0x17] 2 5 2 = .error .sliceBounds := ⟨rfl, rfl⟩
/-- R110: the assembler's line for a word. -/
theorem test_asm : asmLine (.mmul .B .A .RR) = "MMUL B, A, RR" := by decide
/-- R111, 2.1: TOMONT B, A is the word 0x00014512. -/
theorem test_tomont : encode (tomont .B .A) = 0x00014512 := by decide

/-! ### The step and the host interface -/

/-- 2.12: an illegal word with a modulus set: STATUS = 0x0C, FAULTCODE = 0x1206, and CMD reads the word. -/
theorem test_step_illegal : leads (step (small.withFetchWord 32 0x00012112))
    (fun t => statusWord t.status == 0x0C && faultCodeWord t.faultCode == 0x1206 && t.cmd == 0x00012112) = true := by decide +kernel
/-- The first step after reset with a word placed runs it: PKCSCHK ends with STATUS = 0x12 (2.9). -/
theorem test_step_first_word : leads (step (State.reset.withFetchWord 32 0x51))
    (fun t => statusWord t.status == 0x12 && t.events == []) = true := by decide +kernel
/-- From reset nothing runs until the host writes CMD (R311). -/
theorem test_step_idle : leads (step State.reset) (fun t => t == State.reset) = true := by decide +kernel
/-- R34, R74: an accepted CMD write, then the core's turn; the reply is recorded. -/
theorem test_step_host_command :
    leads (core.run 2 { State.reset with events := [.host (.csrWrite 2 0), .core] })
      (fun t => statusWord t.status == 0x02 && t.replies == [.ok]) = true := by decide +kernel
/-- 2.3: what CsrRead(8..12) give on (16,8). -/
theorem test_parameter_registers :
    [8, 9, 10, 11, 12].map (fun k => (csrRead k small).2) = [.word 16, .word 2, .word 8, .word 2, .word 64] := by decide +kernel
/-- R23, R67: a limb of N is not written while MOD_VALID = 1; a limb of S is. -/
theorem test_limb_writes : limbWrite 0 0 0x21 small = (small, .refused) ∧
    limbWrite 3 1 0xAB small = ({ small with regS := 0xAB34 }, .ok) := by decide +kernel
/-- R37, R40: EXP and MLEN take a value while the block is idle; a faulted block refuses it (R64). -/
theorem test_exponent_and_length_writes :
    csrWrite 3 65537 small = ({ small with exp := 65537 }, .ok) ∧ csrWrite 6 33 small = ({ small with mlen := 33 }, .ok) ∧
    csrWrite 3 65537 faulted = (faulted, .refused) := by decide +kernel
/-- R74, R60: a STATUS read that finds BUSY; its reply is recorded, its event is taken off. -/
theorem test_step_host_status_read :
    leads (step { busyWith 0 with events := [.host (.csrRead 1)] })
      (fun t => t.replies == [.word 0x09] && t.events == [] && t.status.busy) = true := by decide +kernel
/-- R273: a faulted block refuses a byte write and answers a byte read. -/
theorem test_faulted_accesses : byteWrite 0 0 7 faulted = (faulted, .refused) ∧ byteRead 0 0 faulted = (faulted, .byte 0) := by
  decide +kernel
/-- R112: `.bn A, 0xABCD` on (16,8) is two limb writes, limb 0 first. -/
theorem test_directive_bn :
    Directive.toEvents p16 (.bn 4 0xABCD) = [.host (.limbWrite 4 0 0xCD), .host (.limbWrite 4 1 0xAB)] := by decide +kernel

/-! ### Witnesses: states and operands that meet the hypotheses of the statements -/

theorem small_modulus : ValidModulus p16 0xF123 := ⟨by decide, by decide, by decide⟩
theorem small_np0 : IsNPrime0 p16 0xF123 0x75 := ⟨by decide, by decide⟩
theorem small_rInv : IsRInv p16 0xF123 0x361F := ⟨by decide, by decide⟩

/-- The premises `Inv`, `modValid`, in-range operands and an idle core hold together. -/
theorem small_inv : small.Inv := by
  refine ⟨by decide, ?_, by decide, by decide, fun _ => small_modulus, fun _ => ⟨by decide, small_np0⟩, ?_, ?_, ?_, ?_, ?_, ?_,
    by decide, by decide, by decide, by decide, by decide⟩
  · intro r; cases r <;> decide
  all_goals decide

/-- The block with the command `w` accepted also meets `Inv`. -/
theorem busy_inv (w : Word) : (busyWith w).Inv :=
  { small_inv with
    bnBound := fun r => by have h := small_inv.bnBound r; cases r <;> exact h
    faultOpcode := fun h => absurd (show false = true from h) (by decide)
    faultIdle := fun h => absurd (show false = true from h) (by decide)
    oneOfTwo := fun _ => rfl
    resDone := fun h => absurd (show false = true from h) (by decide) }

/-- A faulted block meets `Inv`. -/
theorem faulted_inv : faulted.Inv :=
  { busy_inv 0x20 with
    bnBound := by intro r; cases r <;> decide
    faultCause := by decide
    faultOpcode := fun _ => rfl
    faultIdle := fun _ => by decide
    oneOfTwo := fun h => absurd h (by decide)
    resDone := fun h => absurd h (by decide)
    reachable := by decide }

theorem witness_DecodeOfEncode : (Instr.mmul .C .N .C).wellFormed = true := by decide
theorem witness_EncodeOfDecode : decode 0x000F4613 = .error .badSource ∧ decode 0x00066613 = .ok (.modmul .C .C .C) := ⟨rfl, rfl⟩
theorem witness_WhichWordsAreCommands : ∃ i, decode 0x00000411 = .ok i := ⟨.redc .A, rfl⟩
theorem witness_OpcodeRowsDisjoint : ∃ r ∈ opcodeTable, (0x00054612 : Word) &&& r.mask = r.pattern := by decide
theorem witness_StepRunsDecodedCommand :
    (busyWith 0x20).status.busy = true ∧ decode (busyWith 0x20).cmd = .ok .modexp ∧ (busyWith 0x20).events = [] ∧
    (small.withFetchWord 32 0x20).events = .core :: [] ∧ decode (BitVec.ofNat 32 0x20) = .ok .modexp ∧
    ({ small with events := [.host (.csrRead 1), .core] } : State).events = .host (.csrRead 1) :: [.core] :=
  ⟨rfl, rfl, rfl, rfl, rfl, rfl⟩
theorem witness_IllegalWordFaults :
    (busyWith 0xFF).status.busy = true ∧ decode (busyWith 0xFF).cmd = .error .unassignedOpcode ∧ (busyWith 0xFF).events = [] ∧
    (small.withFetchWord 32 0xFF).events.head? = some .core := ⟨rfl, rfl, rfl, rfl⟩
theorem witness_IdleCoreHoldsItsState :
    small.status.busy = false ∧ small.events = [] ∧ ({ small with events := [.core] } : State).events = .core :: [] := ⟨rfl, rfl, rfl⟩
theorem witness_ResetStateIsSound : p16.Legal ∧ (⟨2, 1, 1⟩ : Params).Legal ∧ (⟨4294967295, 4294967295, 4294967295⟩ : Params).Legal := by
  decide
theorem witness_EveryStepKeepsTheInvariant : (busyWith 0x00054612).Inv ∧ ∃ t, step (busyWith 0x00054612) = .next t :=
  ⟨busy_inv _, _, rfl⟩
theorem witness_ModsetMeaning :
    p16.Legal ∧ ValidModulus p16 0xF123 ∧ ValidModulus p16 0x8001 ∧ ValidModulus p16 0xFFFF ∧
    ¬ ValidModulus p16 0x7FFF ∧ ¬ ValidModulus p16 0xF122 ∧ ¬ ValidModulus p16 0 ∧ ValidModulus ⟨2, 1, 1⟩ 3 ∧
    small.Inv ∧ small.status.modValid = true :=
  ⟨by decide, small_modulus, ⟨by decide, by decide, by decide⟩, ⟨by decide, by decide, by decide⟩, fun h => absurd h.low (by decide),
    fun h => absurd h.odd (by decide), fun h => absurd h.low (by decide), ⟨by decide, by decide, by decide⟩, small_inv, rfl⟩
theorem witness_MulMeaning : small.Inv ∧ 0xFFFF < p16.radix ∧ 0 < p16.radix := ⟨small_inv, by decide, by decide⟩
theorem witness_RedcMeaning :
    Reg.isDest .A = true ∧ (State.resetOf p16).status.modValid = false ∧
    (small.Inv ∧ small.status.modValid = true ∧ small.regT < small.regN * small.params.radix) ∧
    ({ small with regT := 0xF122FFFF } : State).regT < 0xF123 * p16.radix ∧ 0xF123 * p16.radix ≤ 0xF1230000 ∧
    IsRInv small.params small.regN 0x361F :=
  ⟨rfl, rfl, ⟨small_inv, rfl, by decide⟩, by decide, by decide, small_rInv⟩
theorem witness_MmulMeaning :
    Reg.isDest .C = true ∧ (State.resetOf p16).status.modValid = false ∧ small.Inv ∧ small.status.modValid = true ∧
    small.bn .A < small.regN ∧ small.bn .B < small.regN ∧ small.regN ≤ small.bn .N ∧ IsRInv small.params small.regN 0x361F :=
  ⟨rfl, rfl, small_inv, rfl, by decide, by decide, by decide, small_rInv⟩
theorem witness_ModmulMeaning :
    Reg.isDest .B = true ∧ (State.resetOf p16).status.modValid = false ∧ small.status.modValid = true ∧
    small.bn .A < small.regN ∧ small.bn .RR < small.regN ∧ small.regN ≤ small.bn .N := by decide
theorem witness_ModexpMeaning :
    ((State.resetOf p16).exp ≠ 3 ∧ (State.resetOf p16).exp ≠ 65537) ∧
    (({ State.resetOf p16 with exp := 65537 } : State).exp = 65537 ∧ (State.resetOf p16).status.modValid = false) ∧
    (small.exp = 3 ∧ small.status.modValid = true ∧ small.regS < small.regN) ∧
    small.regN ≤ ({ small with regS := 0xF123 } : State).regS ∧ ({ small with regS := 0xF122 } : State).regS < small.regN := by decide
theorem witness_SerbeMeaning :
    2 ^ (8 * p16.keyLen) ≤ ({ State.resetOf p16 with regA := 0x10000 } : State).bn .A ∧ small.Inv ∧ small.status.modValid = true ∧
    small.bn .A < small.regN ∧ ({ small with regA := 0xFFFF } : State).bn .A < 2 ^ (8 * p16.keyLen) :=
  ⟨by decide, small_inv, rfl, by decide, by decide⟩
theorem witness_Mgf1Meaning :
    p16.maskCap < (65 : Word).toNat ∧ (64 : Word).toNat ≤ p16.maskCap ∧ (State.resetOf p16).mlen.toNat ≤ p16.maskCap := by decide
theorem witness_PsschkMeaning : small.params.Legal := by decide
theorem witness_VerifypssMeaning :
    small.params.Legal ∧ small.exp = 3 ∧ small.status.modValid = true ∧ small.regS < small.regN ∧
    (State.resetOf p16).exp ≠ 3 ∧ (State.resetOf p16).exp ≠ 65537 ∧ (State.resetOf p16).status.modValid = false ∧
    small.regN ≤ ({ small with regS := 0xF123 } : State).regS := by decide
theorem witness_VerifypkcsMeaning :
    ({ small with exp := 65537 } : State).exp = 65537 ∧ small.status.modValid = true ∧ small.regS < small.regN ∧
    (State.resetOf p16).exp ≠ 3 ∧ (State.resetOf p16).exp ≠ 65537 ∧ (State.resetOf p16).status.modValid = false ∧
    small.regN ≤ ({ small with regS := 0xF123 } : State).regS := by decide
theorem witness_FaultsArePrecise : ∃ t, (busyWith 0x00020412).params.Legal ∧ exec (.mmul .A .N .ONE) (busyWith 0x00020412) = .next t ∧
    (busyWith 0x00020412).status.fault = false ∧ t.status.fault = true := ⟨_, by decide, rfl, rfl, rfl⟩
theorem witness_CommandsKeepTheirInputs : ∃ t, exec .modexp (busyWith 0x20) = .next t := ⟨_, rfl⟩
theorem witness_OnlyCheckingCommandsGiveVerdicts : ∃ t, exec (.serbe .A) (busyWith 0x4030) = .next t ∧
    Instr.serbe .A ≠ .psschk ∧ Instr.serbe .A ≠ .pkcschk ∧ Instr.serbe .A ≠ .verifypss ∧ Instr.serbe .A ≠ .verifypkcs :=
  ⟨_, rfl, by decide⟩
theorem witness_OnlyTheirCommandsWriteBuffersAndContext : ∃ t, exec (.mul .A .B) (busyWith 0x00054010) = .next t ∧
    (∀ ra, Instr.mul .A .B ≠ .serbe ra) ∧ Instr.mul .A .B ≠ .mgf1 ∧ Instr.mul .A .B ≠ .modset :=
  ⟨_, rfl, fun ra => by cases ra <;> decide, by decide, by decide⟩
theorem witness_ModulusIsLockedUntilReset :
    (busyWith 1).Inv ∧ (busyWith 1).status.modValid = true ∧ ∃ t, step (busyWith 1) = .next t := ⟨busy_inv 1, rfl, _, rfl⟩
theorem witness_FaultedBlockIsFrozen : faulted.Inv ∧ faulted.status.fault = true ∧ ∃ t, step faulted = .next t :=
  ⟨faulted_inv, rfl, _, rfl⟩
theorem witness_LimbsAreTheDigits : 0xFFFF < p16.radix := by decide
theorem witness_RegisterWriteReadsBack : Reg.A ≠ .ONE ∧ Reg.B ≠ Reg.A := by decide
theorem witness_MacNeverOverflows : 0xFF < 2 ^ 8 ∧ 0 < 2 ^ 8 := by decide
theorem witness_ReductionContextExists : p16.Legal ∧ ValidModulus p16 0xF123 ∧ limb 8 0xF023 0 = limb 8 0xF123 0 :=
  ⟨by decide, small_modulus, by decide⟩
theorem witness_MontgomeryFormLaws :
    p16.Legal ∧ ValidModulus p16 0xF123 ∧ IsNPrime0 p16 0xF123 0x75 ∧ 0xF122 < 0xF123 ∧ 0 < 0xF123 :=
  ⟨by decide, small_modulus, small_np0, by decide, by decide⟩
theorem witness_ModMulByTwoMontgomeryProducts :
    p16.Legal ∧ ValidModulus p16 0xF123 ∧ IsNPrime0 p16 0xF123 0x75 ∧ 0xF122 < 0xF123 := ⟨by decide, small_modulus, small_np0, by decide⟩
theorem witness_WordSerialSequenceIsMontgomeryProduct :
    p16.Legal ∧ ValidModulus p16 0xF123 ∧ IsNPrime0 p16 0xF123 0x75 ∧ 0x1234 < 0xF123 := ⟨by decide, small_modulus, small_np0, by decide⟩
theorem witness_MontgomeryLadderComputesThePower :
    p16.Legal ∧ ValidModulus p16 0xF123 ∧ IsNPrime0 p16 0xF123 0x75 ∧ 0x1234 < 0xF123 ∧ (65537 : Word) = 65537 :=
  ⟨by decide, small_modulus, small_np0, by decide, rfl⟩
theorem witness_SerializerIsBigEndian : 0xFFFF < 2 ^ (8 * p16.keyLen) := by decide
theorem witness_SliceCopiesAndFills : 2 ≤ 5 ∧ 5 ≤ h1.length ∧ 2 < 5 - 2 ∧ 5 - 2 ≤ 5 ∧ 5 - 2 ≤ 3 := by decide
theorem witness_MasksArePrefixStable : 2 ^ 37 ≤ 137438953472 ∧ 137438953471 < 2 ^ 37 ∧ 32 ≤ 33 := by decide
theorem witness_HashPortSeesTwoLengthsOnly : ∀ x : List Byte, x.length = 36 ∨ x.length = 72 →
    (fun y : List Byte => if y.length = 0 then Vector.replicate 32 1 else sha256 y) x = sha256 x := by
  rintro x (h | h) <;> simp [h]
theorem witness_ShortKeysNeverPassPss : (⟨529, 64, 64⟩ : Params).modBits < 530 ∧ p16.modBits < 530 := by decide
theorem witness_SomeEncodingPassesPssFrom530Bits : (⟨530, 64, 64⟩ : Params).Legal ∧ 530 ≤ (⟨530, 64, 64⟩ : Params).modBits ∧ h2.length = 32 := by
  decide
theorem witness_PssIgnoresSkippedBits :
    (⟨1025, 120, 64⟩ : Params).modBits % 8 = 1 ∧
    (0x7E : Byte).toNat / 2 ^ (8 - (⟨1024, 120, 64⟩ : Params).bitsToMask) =
      (emPss1.getD (⟨1024, 120, 64⟩ : Params).pssOffset 0).toNat / 2 ^ (8 - (⟨1024, 120, 64⟩ : Params).bitsToMask) := by decide
/-- The signature `2^171` under the modulus `2^513 - x`, where `x` is the integer of the encoded message for h1 on 513 bits:
its cube modulo the modulus is `x`. -/
def cubeRoot : State :=
  { State.resetOf { modBits := 513, limbBits := 120, maskCap := 64 } with
    regS := 2 ^ 171
    regN := 2 ^ 513 - ofLimbs 8 ((pkcsString { modBits := 513, limbBits := 120, maskCap := 64 } h1).reverse.map BitVec.toNat)
    exp := 3
    mhash := Memory.ofBytes h1
    status := { busy := true, done := false, fault := false, modValid := true, resValid := false } }
theorem witness_ValidPkcsSignatureVerifies :
    cubeRoot.status.modValid = true ∧ cubeRoot.exp = 3 ∧ cubeRoot.regS < cubeRoot.regN ∧ 54 ≤ cubeRoot.params.keyLen ∧
    cubeRoot.regS ^ cubeRoot.exp.toNat % cubeRoot.regN =
      ∑ k ∈ Finset.range cubeRoot.params.keyLen,
        ((pkcsString cubeRoot.params cubeRoot.mhashBytes).getD (cubeRoot.params.keyLen - 1 - k) 0).toNat * 2 ^ (8 * k) := by
  decide +kernel
theorem witness_VerificationIsTheThreeCommands :
    (small.Inv ∧ small.status.idle = true ∧ small.exp = 3 ∧ small.status.modValid = true ∧ small.regS < small.regN) ∧
    ∃ s₁, exec .modexp (acceptCommand (encode .modexp) (State.resetOf p16)) = .next s₁ ∧ s₁.status.fault = true :=
  ⟨⟨small_inv, rfl, rfl, rfl, by decide⟩, _, rfl, rfl⟩
theorem witness_VerificationIsIdempotent : ∃ t, exec .verifypkcs (busyWith 0x61) = .next t ∧ t.status.fault = false := ⟨_, rfl, rfl⟩
theorem witness_VerdictDependsOnItsInputsOnly :
    ∃ s' : State, s' ≠ busyWith 0x60 ∧ (busyWith 0x60).params.modBits = s'.params.modBits ∧ (busyWith 0x60).regN = s'.regN ∧
      (busyWith 0x60).regS = s'.regS ∧ (busyWith 0x60).exp = s'.exp ∧ (busyWith 0x60).mhash = s'.mhash ∧
      (busyWith 0x60).status.modValid = s'.status.modValid ∧ (busyWith 0x60).status.fault = false ∧ s'.status.fault = false :=
  ⟨{ busyWith 0x60 with params := ⟨16, 4, 1⟩, regB := 7, em := Memory.ofBytes h1 }, by decide⟩
theorem witness_RefusedAccessChangesNothing : (hostAccess (.csrWrite 2 0) faulted).2 = .refused := by decide
theorem witness_BusyBlockAnswersStatusOnly :
    (busyWith 0).status.busy = true ∧ (busyWith 0).status.done = false ∧
    HostOp.csrRead 2 ≠ .csrRead 1 ∧ HostOp.csrRead 2 ≠ .hardReset ∧ ∀ v, HostOp.csrRead 2 ≠ .csrWrite 0 v :=
  ⟨rfl, rfl, by decide, by decide, fun _ => by simp⟩
theorem witness_MissingAndReadOnlyElementsAreRefused :
    (small.params.numLimbs ≤ 2 ∧ 2 * small.params.numLimbs ≤ 4 ∧ small.params.keyLen ≤ 2 ∧ small.params.maskCap ≤ 64) ∧
    small.status.modValid = true := by decide
theorem witness_NotBusy : small.status.busy = false ∧ faulted.status.busy = false := by decide
/-- For each clause of the cause a state that is not busy and has it; 8 is the last code. -/
theorem witness_ControlRegistersRead :
    small.status.busy = false ∧ small.faultCode.cause = none ∧
    ∀ c : Cause, (raiseFault c small).status.busy = false ∧ (raiseFault c small).faultCode.cause = some c :=
  ⟨rfl, rfl, fun _ => ⟨rfl, rfl⟩⟩
theorem witness_ReadsAreAnsweredWhenNotBusy :
    1 < small.params.numLimbs ∧ 3 < 2 * small.params.numLimbs ∧ 1 < small.params.keyLen ∧ 63 < small.params.maskCap := by decide
theorem witness_CommandWriteIsAcceptedWhenIdle :
    (small.status.busy = false ∧ small.status.fault = false) ∧ (busyWith 0).status.busy = true ∧ faulted.status.fault = true := by decide
theorem witness_ResetClearsEverything : (0xFFFFFFFE : Word).getLsbD 0 = false ∧ (1 : Word).getLsbD 0 = true := by decide
/-- The last limb of S, C and T, limb 0 of N before MODSET, and the largest limb; then a busy and a faulted block. -/
theorem witness_LimbWriteThenRead :
    (small.status.busy = false ∧ small.status.fault = false ∧ 0xFF < 2 ^ small.params.limbBits ∧
      1 < small.params.numLimbs ∧ 3 < 2 * small.params.numLimbs) ∧
    (limbWrite 3 1 0xFF small).2 = .ok ∧ (limbWrite 6 1 0xFF small).2 = .ok ∧ (limbWrite 8 3 0xFF small).2 = .ok ∧
    ((State.resetOf p16).status.modValid = false ∧ (limbWrite 0 1 0xFF (State.resetOf p16)).2 = .ok) ∧
    (busyWith 0).status.busy = true ∧ faulted.status.fault = true := by decide
/-- The last byte of MHASH, SEED and EM; then a busy and a faulted block; then a sound state with an accepted write. -/
theorem witness_ByteWriteThenRead :
    (small.status.busy = false ∧ small.status.fault = false ∧ 1 < small.params.keyLen) ∧
    ((busyWith 0).status.busy = true ∧ faulted.status.fault = true) ∧
    small.Inv ∧ (byteWrite 0 31 0xFF small).2 = .ok ∧ (byteWrite 2 31 0xFF small).2 = .ok ∧
    (byteWrite 1 1 0xFF small).2 = .ok :=
  ⟨by decide, by decide, small_inv, by decide, by decide, by decide⟩
theorem witness_EqualBuffersAreEqualData : (Memory.ofBytes h1).wf = true := by decide

end Sys2Proof.Tests
end

section
/-! The accessor law of the big-number registers (R11, R25), from the model's rule `setBn_bn` for a read after a write. -/

namespace Sys2Proof.Machine

/-- Settles O33: `setBn_bn` gives the read-back and the frame; ONE has no storage, so its two clauses are the definitions
of the read and the write. -/
theorem registerWriteReadsBack : Obligations.RegisterWriteReadsBack := by
  intro s r q v
  refine ⟨fun hr => ?readBack, fun hq => ?others, ?writeOne, ?readOne⟩
  case readBack => rw [setBn_bn, if_pos ⟨rfl, hr⟩]
  case others => rw [setBn_bn, if_neg fun h => hq h.1]
  case writeOne => rfl
  case readOne => rfl

end Sys2Proof.Machine
end

section
/-! What the host's turn and a step can do, said once (R60 to R68, R73): the inversion lemmas that the proofs about every
step use. -/

namespace Sys2Proof.Machine

/-- What a host operation can leave behind, with the conditions of R64 and R66 under which it writes. -/
inductive HostEffect (s : State) : State → Prop
  /-- A read, a refused access (R68), or a CTRL write without bit 0 (R33). -/
  | same : HostEffect s s
  | reset : HostEffect s (performReset s)
  | command (w : Word) (idle : s.status.idle = true) : HostEffect s (acceptCommand w s)
  | exponent (w : Word) (idle : s.status.idle = true) : HostEffect s { s with exp := w }
  | maskLength (w : Word) (idle : s.status.idle = true) : HostEffect s { s with mlen := w }
  | limb (b : BigReg) (i v : Nat) (idle : s.status.idle = true) (allowed : s.hostMayWriteBig b = true)
      (inside : i < limbCount s.params b) (isLimb : v < 2 ^ s.params.limbBits) :
      HostEffect s (s.setBig b (setLimb s.params.limbBits (s.big b) i v))
  | byte (k : Buf) (i : Nat) (v : Byte) (idle : s.status.idle = true) (allowed : k.hostMayWrite = true)
      (inside : i < bufLen s.params k) : HostEffect s (s.setBuf k ((s.buf k).write i v))

theorem csrRead_state (k : Nat) (s : State) : (csrRead k s).1 = s := by
  unfold csrRead
  split
  · rfl
  · split <;> rfl

theorem limbRead_state (r i : Nat) (s : State) : (limbRead r i s).1 = s := by
  unfold limbRead
  split
  · rfl
  · split <;> rfl

theorem byteRead_state (b i : Nat) (s : State) : (byteRead b i s).1 = s := by
  unfold byteRead
  split
  · rfl
  · split <;> rfl

theorem csrWrite_effect (k : Nat) (v : Word) (s : State) : HostEffect s (csrWrite k v s).1 := by
  unfold csrWrite
  split
  case h_1 =>
    dsimp only
    split
    · exact .reset
    · exact .same
  case h_2 =>
    split
    · exact .command v ‹_›
    · exact .same
  case h_3 =>
    split
    · exact .exponent v ‹_›
    · exact .same
  case h_4 =>
    split
    · exact .maskLength v ‹_›
    · exact .same
  case h_5 => exact .same

theorem limbWrite_effect (r i v : Nat) (s : State) : HostEffect s (limbWrite r i v s).1 := by
  unfold limbWrite
  split
  · exact .same
  · split
    · rename_i hw
      simp only [Bool.and_eq_true, decide_eq_true_eq] at hw
      obtain ⟨⟨⟨idle, allowed⟩, inside⟩, isLimb⟩ := hw
      exact .limb _ i v idle allowed inside isLimb
    · exact .same

theorem byteWrite_effect (b i : Nat) (v : Byte) (s : State) : HostEffect s (byteWrite b i v s).1 := by
  unfold byteWrite
  split
  · exact .same
  · split
    · rename_i hw
      simp only [Bool.and_eq_true, decide_eq_true_eq] at hw
      obtain ⟨⟨idle, allowed⟩, inside⟩ := hw
      exact .byte _ i v idle allowed inside
    · exact .same

theorem hostAccess_effect (op : HostOp) (s : State) : HostEffect s (hostAccess op s).1 := by
  cases op with
  | csrRead k => exact (csrRead_state k s).symm ▸ .same
  | csrWrite k v => exact csrWrite_effect k v s
  | limbRead r i => exact (limbRead_state r i s).symm ▸ .same
  | limbWrite r i v => exact limbWrite_effect r i v s
  | byteRead b i => exact (byteRead_state b i s).symm ▸ .same
  | byteWrite b i v => exact byteWrite_effect b i v s
  | hardReset => exact .reset

/-- `step_next` with its two core's turns as one: with no event pending there is none to take off. -/
theorem step_turn {s t : State} (h : step s = .next t) :
    ∃ rest, coreTurn { s with events := rest } = .next t ∨ ∃ op, t = hostTurn op { s with events := rest } := by
  rcases step_next h with ⟨-, h⟩ | ⟨rest, -, h⟩ | ⟨op, rest, -, h⟩
  · exact ⟨s.events, .inl h⟩
  · exact ⟨rest, .inl h⟩
  · exact ⟨rest, .inr ⟨op, h⟩⟩

end Sys2Proof.Machine
end

section
/-! The invariant of the block (R48, with R22, R27, R31, R39, R42): it holds after a reset, each single write of a command or
of the host keeps it, and so does each end of a command; every step is made of these. -/

namespace Sys2Proof.Machine

theorem one_lt_radix {p : Params} (hp : p.Legal) : 1 < p.radix := by
  obtain ⟨⟨hm, -⟩, ⟨hw, -⟩, -⟩ := hp
  have limbs : 0 < p.numLimbs := Nat.div_pos (by omega) hw
  exact Nat.one_lt_two_pow (Nat.mul_ne_zero (by omega) limbs.ne')

theorem inv_resetOf {p : Params} (hp : p.Legal) : (State.resetOf p).Inv where
  legal := hp
  bnBound r := by
    have := one_lt_radix hp
    cases r <;> simp only [State.bn, State.resetOf] <;> omega
  wideBound := Nat.pow_pos (Nat.zero_lt_of_lt (one_lt_radix hp))
  np0Bound := Nat.two_pow_pos _
  modulus h := by cases h
  context h := by cases h
  noContext _ := ⟨rfl, rfl⟩
  faultCause := by simp [State.resetOf]
  faultOpcode h := by cases h
  faultIdle h := by cases h
  oneOfTwo h := by cases h
  resDone h := by cases h
  reachable := by simp [State.resetOf]
  mhashOk := ⟨rfl, rfl⟩
  emOk := ⟨rfl, rfl⟩
  seedOk := ⟨rfl, rfl⟩
  maskOk := ⟨rfl, rfl⟩

/-- Settles O11: `inv_resetOf`, and the block of `Config.params` is legal. -/
theorem resetStateIsSound : Obligations.ResetStateIsSound :=
  ⟨fun _ hp => inv_resetOf hp, inv_resetOf (by decide)⟩

section
variable {s : State} (h : s.Inv)
include h

/-! ### Consequences -/

theorem State.Inv.not_fault_of_busy (hb : s.status.busy = true) : s.status.fault = false := by
  by_contra hf
  obtain ⟨hb', -⟩ := h.faultIdle (by simpa using hf)
  rw [hb] at hb'
  cases hb'

theorem State.Inv.not_resValid_of_busy (hb : s.status.busy = true) : s.status.resValid = false := by
  by_contra hr
  have hd := h.resDone (by simpa using hr)
  rw [h.oneOfTwo hb] at hd
  cases hd

theorem State.Inv.regN_lt_radix : s.regN < s.params.radix := h.bnBound .N

/-! ### The model's own fields and reset -/

theorem State.Inv.with_events (e : List Event) : ({ s with events := e } : State).Inv := { h with }

theorem State.Inv.with_replies (r : List Reply) : ({ s with replies := r } : State).Inv := { h with }

theorem State.Inv.performReset : (performReset s).Inv := { inv_resetOf h.legal with }

/-! ### One register, buffer or context -/

/-- A register write below the radix keeps the invariant, but for RR, and for N once it is locked. -/
theorem State.Inv.setBn {r : Reg} {v : Nat} (hRR : r ≠ .RR) (hN : r = .N → s.status.modValid = false)
    (hv : v < s.params.radix) : (s.setBn r v).Inv := by
  have bound : ∀ q, (s.setBn r v).bn q < s.params.radix := by
    intro q
    rw [setBn_bn]
    split
    · exact hv
    · exact h.bnBound q
  cases r with
  | N =>
    have unlocked : s.status.modValid ≠ true := by simp [hN rfl]
    exact { h with
      bnBound := bound
      modulus := fun hm => absurd hm unlocked
      context := fun hm => absurd hm unlocked }
  | RR => exact absurd rfl hRR
  | ONE => exact h
  | S | A | B | C => exact { h with bnBound := bound }

theorem State.Inv.setBn_dest {rd : Reg} {v : Nat} (hd : rd.isDest = true) (hv : v < s.params.radix) :
    (s.setBn rd v).Inv :=
  h.setBn (by rintro rfl; cases hd) (by rintro rfl; cases hd) hv

theorem State.Inv.with_regT {v : Nat} (hv : v < s.params.radix ^ 2) : ({ s with regT := v } : State).Inv :=
  { h with wideBound := hv }

theorem State.Inv.freeT : (freeT s).Inv :=
  { h with wideBound := Nat.mod_lt _ (Nat.zero_lt_of_lt h.wideBound) }

theorem State.Inv.withContext (hm : ValidModulus s.params s.regN) : s.withContext.Inv := by
  have np0 := nPrime0_spec h.legal.2.1.1 hm.odd
  have positive : 0 < s.regN := Nat.pos_of_ne_zero fun h0 => by have := hm.odd; omega
  have rrBound : montRR s.params s.regN < s.params.radix := (Nat.mod_lt _ positive).trans h.regN_lt_radix
  exact { h with
    bnBound := fun r => by
      cases r with
      | RR => exact rrBound
      | N => exact h.bnBound .N
      | ONE => exact h.bnBound .ONE
      | S => exact h.bnBound .S
      | A => exact h.bnBound .A
      | B => exact h.bnBound .B
      | C => exact h.bnBound .C
    np0Bound := np0.bound
    modulus := fun _ => hm
    context := fun _ => ⟨rfl, np0⟩
    noContext := fun hv => by cases hv }

theorem State.Inv.exponentiate (hn : s.regS < s.regN) : (exponentiate s).Inv := by
  have below : modExp s.regS s.exp s.regN < s.regN := by
    unfold modExp
    dsimp only
    split <;> exact Nat.mod_lt _ (Nat.zero_lt_of_lt hn)
  exact (h.setBn_dest rfl (below.trans h.regN_lt_radix)).freeT

theorem State.Inv.serialize (r : Reg) : (serialize r s).Inv :=
  { h with emOk := ⟨Memory.wf_ofBytes _, Memory.inBounds_ofBytes (length_serBE s.params _).le⟩ }

theorem State.Inv.with_mask {bs : List Byte} (hl : bs.length ≤ s.params.maskCap) :
    ({ s with mask := Memory.ofBytes bs } : State).Inv :=
  { h with maskOk := ⟨Memory.wf_ofBytes _, Memory.inBounds_ofBytes hl⟩ }

/-- R129: the Montgomery product of two values below an accepted modulus is below it. -/
theorem State.Inv.montMul_lt (hv : s.status.modValid = true) {a b : Nat} (ha : a < s.regN) (hb : b < s.regN) :
    montMul s.params s.np0 s.regN a b < s.regN := by
  obtain ⟨-, hnp⟩ := h.context hv
  exact (redc_spec hnp.minus (Nat.mul_lt_mul'' ha (hb.trans h.regN_lt_radix))).1

theorem State.Inv.mul_lt_radix_sq (ra rb : Reg) : s.bn ra * s.bn rb < s.params.radix ^ 2 := by
  rw [Nat.pow_two]
  exact Nat.mul_lt_mul'' (h.bnBound ra) (h.bnBound rb)

/-! ### How a command starts and ends -/

theorem State.Inv.acceptCommand (w : Word) (hi : s.status.idle = true) : (acceptCommand w s).Inv := by
  have noFault : s.status.fault ≠ true := by
    simp only [Status.idle, Bool.and_eq_true, Bool.not_eq_true'] at hi
    simp [hi.2]
  exact { h with
    faultOpcode := fun hf => absurd hf noFault
    faultIdle := fun hf => absurd hf noFault
    oneOfTwo := fun _ => rfl
    resDone := fun hr => by cases hr }

theorem State.Inv.raiseFault {c : Cause} (hc : c ≠ .maskTooLong) (hc' : c ≠ .sliceBounds) : (raiseFault c s).Inv :=
  { h with
    faultCause := by simp
    faultOpcode := fun _ => rfl
    faultIdle := fun _ => ⟨rfl, rfl⟩
    oneOfTwo := fun hb => by cases hb
    resDone := fun hr => by cases hr
    reachable := by simp [hc, hc'] }

theorem State.Inv.complete (hb : s.status.busy = true) : (complete s).Inv :=
  { h with
    faultIdle := fun hf => absurd hf (by simp [h.not_fault_of_busy hb])
    oneOfTwo := fun hb' => by cases hb'
    resDone := fun _ => rfl }

theorem State.Inv.completeChecked (v : Bool) (hb : s.status.busy = true) : (completeChecked v s).Inv :=
  { h with
    faultIdle := fun hf => absurd hf (by simp [h.not_fault_of_busy hb])
    oneOfTwo := fun hb' => by cases hb'
    resDone := fun _ => rfl }

/-! ### The host's writes -/

theorem State.Inv.setBig_setLimb {b : BigReg} {i v : Nat} (allowed : s.hostMayWriteBig b = true)
    (inside : i < limbCount s.params b) (isLimb : v < 2 ^ s.params.limbBits) :
    (s.setBig b (setLimb s.params.limbBits (s.big b) i v)).Inv := by
  cases b with
  | reg r =>
    have hRR : r ≠ .RR := by rintro rfl; cases allowed
    have hN : r = .N → s.status.modValid = false := by rintro rfl; simpa [State.hostMayWriteBig] using allowed
    exact h.setBn hRR hN (setLimb_lt (h.bnBound r) inside isLimb)
  | wide =>
    have square : s.params.radix ^ 2 = 2 ^ (s.params.limbBits * (2 * s.params.numLimbs)) := by
      rw [Params.radix, ← Nat.pow_mul]
      congr 1
      ring
    have bound := h.wideBound
    rw [square] at bound
    exact h.with_regT (square ▸ setLimb_lt bound inside isLimb)

theorem State.Inv.setBuf_write {k : Buf} {i : Nat} (v : Byte) (inside : i < bufLen s.params k) :
    (s.setBuf k ((s.buf k).write i v)).Inv := by
  have keeps : ∀ {m : Memory}, m.wf = true ∧ m.inBounds (bufLen s.params k) = true →
      (m.write i v).wf = true ∧ (m.write i v).inBounds (bufLen s.params k) = true :=
    fun ⟨hw, hb⟩ => ⟨Memory.wf_write i v hw, Memory.inBounds_write v inside hb⟩
  cases k with
  | MHASH => exact { h with mhashOk := keeps h.mhashOk }
  | EM => exact { h with emOk := keeps h.emOk }
  | SEED => exact { h with seedOk := keeps h.seedOk }
  | MASK => exact { h with maskOk := keeps h.maskOk }

theorem State.Inv.hostEffect {t : State} (e : HostEffect s t) : t.Inv := by
  cases e with
  | same => exact h
  | reset => exact h.performReset
  | command w idle => exact h.acceptCommand w idle
  | exponent w idle => exact { h with }
  | maskLength w idle => exact { h with }
  | limb b i v idle allowed inside isLimb => exact h.setBig_setLimb allowed inside isLimb
  | byte k i v idle allowed inside => exact h.setBuf_write v inside

theorem State.Inv.hostTurn (op : HostOp) : (hostTurn op s).Inv :=
  (h.hostEffect (hostAccess_effect op s)).with_replies _

/-! ### The core's turn -/

/-- A command of a busy core keeps the invariant: the cases are those of `exec_next`. -/
theorem State.Inv.exec {i : Instr} {t : State} (hb : s.status.busy = true) (he : exec i s = .next t) : t.Inv := by
  have radix {v : Nat} (hv : v < s.regN) : v < s.params.radix := hv.trans h.regN_lt_radix
  rcases exec_next h.legal he with ⟨c, hc, hc', rfl⟩ | ⟨-, rfl⟩ | ⟨-, hm, rfl⟩ | ⟨ra, rb, -, rfl⟩ |
    ⟨rd, -, hd, hv, ht, rfl⟩ | ⟨rd, ra, rb, v, hi, hd, hv, ha, hb', rfl⟩ | ⟨-, -, hv, hs, rfl⟩ | ⟨ra, -, -, rfl⟩ |
    ⟨-, m, hl, rfl⟩ | ⟨-, b, rfl⟩ | ⟨-, b, rfl⟩ | ⟨-, -, hv, hs, b, rfl⟩
  · exact h.raiseFault hc hc'
  · exact h.complete hb
  · exact (h.withContext hm).complete hb
  · exact (h.with_regT (h.mul_lt_radix_sq ra rb)).complete hb
  · obtain ⟨-, hnp⟩ := h.context hv
    exact (h.setBn_dest hd (radix (redc_spec hnp.minus ht).1)).complete (by simpa using hb)
  · have below : v < s.regN := by
      rcases hi with ⟨-, rfl⟩ | ⟨-, rfl⟩
      · exact h.montMul_lt hv ha hb'
      · exact Nat.mod_lt _ (Nat.zero_lt_of_lt ha)
    exact (h.setBn_dest hd (radix below)).freeT.complete (by simpa using hb)
  · exact (h.exponentiate hs).complete hb
  · exact (h.serialize ra).complete hb
  · exact (h.with_mask hl).complete hb
  · exact h.completeChecked b hb
  · exact h.completeChecked b hb
  · exact ((h.exponentiate hs).serialize .A).completeChecked b hb

theorem State.Inv.coreTurn {t : State} (hc : coreTurn s = .next t) : t.Inv := by
  rcases coreTurn_next hc with ⟨-, rfl⟩ | ⟨-, -, rfl⟩ | ⟨hb, i, -, he⟩
  · exact h
  · exact h.raiseFault (by simp) (by simp)
  · exact h.exec hb he

end

/-- Settles O12: a step is the core's turn or the host's, with its event taken off, and both keep the invariant. -/
theorem everyStepKeepsTheInvariant : Obligations.EveryStepKeepsTheInvariant := by
  intro s t h hstep
  obtain ⟨rest, hcore | ⟨op, rfl⟩⟩ := step_turn hstep
  · exact (h.with_events rest).coreTurn hcore
  · exact (h.with_events rest).hostTurn op

end Sys2Proof.Machine
end

section
/-! What a command writes, said once for every state and without the conditions of a sound one (`exec_next` needs a legal
block): the registers it works on, then its end, a completion, a verdict or a fault. The frames of R28, R31 and R38 follow. -/

namespace Sys2Proof.Machine

/-- The four commands that answer with a verdict (R38). -/
def Instr.Checks (i : Instr) : Prop := i = .psschk ∨ i = .pkcschk ∨ i = .verifypss ∨ i = .verifypkcs

/-- What command `i` can have written when it comes to its end (the table of R28). -/
inductive CommandWork (s : State) : Instr → State → Prop
  | nothing (i : Instr) : CommandWork s i s
  | context : CommandWork s .modset s.withContext
  | wideProduct (ra rb : Reg) : CommandWork s (.mul ra rb) { s with regT := s.bn ra * s.bn rb }
  | reduction (rd : Reg) (v : Nat) (dest : rd.isDest = true) : CommandWork s (.redc rd) (s.setBn rd v)
  | mmul (rd ra rb : Reg) (v : Nat) (dest : rd.isDest = true) : CommandWork s (.mmul rd ra rb) (freeT (s.setBn rd v))
  | modmul (rd ra rb : Reg) (v : Nat) (dest : rd.isDest = true) : CommandWork s (.modmul rd ra rb) (freeT (s.setBn rd v))
  | power : CommandWork s .modexp (exponentiate s)
  | bytes (ra : Reg) : CommandWork s (.serbe ra) (serialize ra s)
  | mask (bs : List Byte) : CommandWork s .mgf1 { s with mask := Memory.ofBytes bs }
  | verifypss : CommandWork s .verifypss (serialize .A (exponentiate s))
  | verifypkcs : CommandWork s .verifypkcs (serialize .A (exponentiate s))

/-- How command `i` can end (R74, R272) when it has left `u`. -/
inductive CommandEnd (i : Instr) (u : State) : State → Prop
  | done : CommandEnd i u (complete u)
  | verdict (b : Bool) (checks : Instr.Checks i) : CommandEnd i u (completeChecked b u)
  | fault (c : Cause) : CommandEnd i u (raiseFault c u)

/-- A run of command `i` from `s` to `t`: its work, then its end. -/
def CommandRun (i : Instr) (s t : State) : Prop := ∃ u, CommandWork s i u ∧ CommandEnd i u t

theorem commandRun_of_guarded {i : Instr} {c : Option Cause} {f : State → State} {s t : State}
    (h : guarded c f s = .next t) (hf : c = none → CommandRun i s (f s)) : CommandRun i s t := by
  rcases guarded_next h with ⟨k, -, rfl⟩ | ⟨hc, rfl⟩
  · exact ⟨s, .nothing i, .fault k⟩
  · exact hf hc

theorem commandEnd_finishCheck {i : Instr} (checks : Instr.Checks i) (v : Except Cause Bool) (u : State) :
    CommandEnd i u (finishCheck v u) := by
  cases v with
  | ok b => exact .verdict b checks
  | error c => exact .fault c

theorem isDest_of_destinationFault {rd : Reg} {c : Option Cause} (h : destinationFault rd c = none) :
    rd.isDest = true := by
  unfold destinationFault at h
  split at h
  · assumption
  · cases h

theorem commandRun_fillMask (hash : HashPort) (s : State) : CommandRun .mgf1 s (fillMask hash s) := by
  unfold fillMask
  split
  · exact ⟨_, .mask _, .done⟩
  · exact ⟨s, .nothing _, .fault _⟩

/-- Every command that answers a next state has run there. -/
theorem commandRun_of_exec {i : Instr} {s t : State} (h : exec i s = .next t) : CommandRun i s t := by
  cases i with
  | nop =>
    cases h
    exact ⟨s, .nothing _, .done⟩
  | modset =>
    simp only [exec, execModset] at h
    exact commandRun_of_guarded h fun _ => ⟨_, .context, .done⟩
  | mul ra rb =>
    cases h
    exact ⟨_, .wideProduct ra rb, .done⟩
  | redc rd =>
    simp only [exec, execRedc] at h
    exact commandRun_of_guarded h fun hc => ⟨_, .reduction rd _ (isDest_of_destinationFault hc), .done⟩
  | mmul rd ra rb =>
    simp only [exec, execMmul] at h
    exact commandRun_of_guarded h fun hc => ⟨_, .mmul rd ra rb _ (isDest_of_destinationFault hc), .done⟩
  | modmul rd ra rb =>
    simp only [exec, execModmul] at h
    exact commandRun_of_guarded h fun hc => ⟨_, .modmul rd ra rb _ (isDest_of_destinationFault hc), .done⟩
  | modexp =>
    simp only [exec, execModexp] at h
    exact commandRun_of_guarded h fun _ => ⟨_, .power, .done⟩
  | serbe ra =>
    simp only [exec, execSerbe] at h
    exact commandRun_of_guarded h fun _ => ⟨_, .bytes ra, .done⟩
  | mgf1 =>
    simp only [exec, execMgf1, execMgf1On] at h
    exact commandRun_of_guarded h fun _ => commandRun_fillMask sha256 s
  | psschk =>
    cases h
    exact ⟨s, .nothing _, commandEnd_finishCheck (.inl rfl) _ s⟩
  | pkcschk =>
    cases h
    exact ⟨s, .nothing _, .verdict _ (.inr (.inl rfl))⟩
  | verifypss =>
    simp only [exec, execVerifypss, execVerifypssOn] at h
    exact commandRun_of_guarded h fun _ => ⟨_, .verifypss, commandEnd_finishCheck (.inr (.inr (.inl rfl))) _ _⟩
  | verifypkcs =>
    simp only [exec, execVerifypkcs] at h
    exact commandRun_of_guarded h fun _ => ⟨_, .verifypkcs, .verdict _ (.inr (.inr (.inr rfl)))⟩

/-! ### The registers and buffers that are the host's to write (R23, R26, R43) -/

/-- What no command writes is the same in `s` and `t`. -/
def SameInputs (s t : State) : Prop :=
  t.params = s.params ∧ t.regN = s.regN ∧ t.regS = s.regS ∧ t.mhash = s.mhash ∧ t.seed = s.seed ∧
    t.exp = s.exp ∧ t.mlen = s.mlen ∧ t.cmd = s.cmd ∧ t.events = s.events ∧ t.replies = s.replies

theorem sameInputs_refl (s : State) : SameInputs s s := ⟨rfl, rfl, rfl, rfl, rfl, rfl, rfl, rfl, rfl, rfl⟩

theorem sameInputs_setBn_dest (s : State) {rd : Reg} (v : Nat) (dest : rd.isDest = true) :
    SameInputs s (s.setBn rd v) := by
  cases rd with
  | A | B | C => exact sameInputs_refl s
  | N | RR | ONE | S => cases dest

theorem CommandWork.sameInputs {i : Instr} {s u : State} (w : CommandWork s i u) : SameInputs s u := by
  cases w with
  | reduction rd v dest => exact sameInputs_setBn_dest s v dest
  | mmul rd ra rb v dest => exact sameInputs_setBn_dest s v dest
  | modmul rd ra rb v dest => exact sameInputs_setBn_dest s v dest
  | nothing | context | wideProduct | power | bytes | mask | verifypss | verifypkcs => exact sameInputs_refl s

theorem CommandEnd.sameInputs {i : Instr} {s u t : State} (e : CommandEnd i u t) (h : SameInputs s u) :
    SameInputs s t := by
  cases e with
  | done | verdict | fault => exact h

/-- Settles O27: neither a command's work nor its end writes any of these. -/
theorem commandsKeepTheirInputs : Obligations.CommandsKeepTheirInputs := by
  intro i s t h
  obtain ⟨u, work, ending⟩ := commandRun_of_exec h
  exact ending.sameInputs work.sameInputs

/-! ### The verdict (R31, R38) -/

theorem CommandWork.keeps_verdict {i : Instr} {s u : State} (w : CommandWork s i u) :
    u.verified = s.verified ∧ u.status.resValid = s.status.resValid := by
  cases w with
  | reduction | mmul | modmul => simp
  | nothing | context | wideProduct | power | bytes | mask | verifypss | verifypkcs => exact ⟨rfl, rfl⟩

theorem CommandEnd.keeps_verdict {i : Instr} {u t : State} (e : CommandEnd i u t) (hi : ¬ Instr.Checks i) :
    t.verified = u.verified ∧ (t.status.resValid = true → u.status.resValid = true) := by
  cases e with
  | done => exact ⟨rfl, id⟩
  | verdict b checks => exact absurd checks hi
  | fault c => exact ⟨rfl, fun hr => by cases hr⟩

/-- Settles O28: no work touches the verdict, and only the end of a checking command gives one. -/
theorem onlyCheckingCommandsGiveVerdicts : Obligations.OnlyCheckingCommandsGiveVerdicts := by
  intro i s t h hpss hpkcs hvpss hvpkcs
  obtain ⟨u, work, ending⟩ := commandRun_of_exec h
  have notChecking : ¬ Instr.Checks i := by simp [Instr.Checks, hpss, hpkcs, hvpss, hvpkcs]
  obtain ⟨verified, resValid⟩ := work.keeps_verdict
  obtain ⟨verified', resValid'⟩ := ending.keeps_verdict notChecking
  exact ⟨verified'.trans verified, fun ht => resValid ▸ resValid' ht⟩

/-! ### EM, MASK and the reduction context (R24, R28) -/

theorem CommandWork.keeps_em {i : Instr} {s u : State} (w : CommandWork s i u) (hser : ∀ ra, i ≠ .serbe ra)
    (hpss : i ≠ .verifypss) (hpkcs : i ≠ .verifypkcs) : u.em = s.em := by
  cases w with
  | bytes ra => exact absurd rfl (hser ra)
  | verifypss => exact absurd rfl hpss
  | verifypkcs => exact absurd rfl hpkcs
  | reduction | mmul | modmul => simp
  | nothing | context | wideProduct | power | mask => rfl

theorem CommandWork.keeps_mask {i : Instr} {s u : State} (w : CommandWork s i u) (hi : i ≠ .mgf1) : u.mask = s.mask := by
  cases w with
  | mask bs => exact absurd rfl hi
  | reduction | mmul | modmul => simp
  | nothing | context | wideProduct | power | bytes | verifypss | verifypkcs => rfl

/-- The reduction context and its flag (R24) are the same in `s` and `t`. -/
def SameContext (s t : State) : Prop := t.regRR = s.regRR ∧ t.np0 = s.np0 ∧ t.status.modValid = s.status.modValid

theorem sameContext_setBn (s : State) {r : Reg} (v : Nat) (hr : r ≠ .RR) : SameContext s (s.setBn r v) := by
  cases r with
  | RR => exact absurd rfl hr
  | N | ONE | S | A | B | C => exact ⟨rfl, rfl, rfl⟩

theorem sameContext_setBn_dest (s : State) {rd : Reg} (v : Nat) (dest : rd.isDest = true) :
    SameContext s (s.setBn rd v) :=
  sameContext_setBn s v (by rintro rfl; cases dest)

theorem CommandWork.sameContext {i : Instr} {s u : State} (w : CommandWork s i u) (hi : i ≠ .modset) :
    SameContext s u := by
  cases w with
  | context => exact absurd rfl hi
  | reduction rd v dest => exact sameContext_setBn_dest s v dest
  | mmul rd ra rb v dest => exact sameContext_setBn_dest s v dest
  | modmul rd ra rb v dest => exact sameContext_setBn_dest s v dest
  | nothing | wideProduct | power | bytes | mask | verifypss | verifypkcs => exact ⟨rfl, rfl, rfl⟩

theorem CommandEnd.keeps_buffers {i : Instr} {u t : State} (e : CommandEnd i u t) : t.em = u.em ∧ t.mask = u.mask := by
  cases e with
  | done | verdict | fault => exact ⟨rfl, rfl⟩

theorem CommandEnd.sameContext {i : Instr} {s u t : State} (e : CommandEnd i u t) (h : SameContext s u) :
    SameContext s t := by
  cases e with
  | done | verdict | fault => exact h

/-- Settles O29: a command's end writes no buffer and no context, and its work only those of its row in the table of R28. -/
theorem onlyTheirCommandsWriteBuffersAndContext : Obligations.OnlyTheirCommandsWriteBuffersAndContext := by
  intro i s t h
  obtain ⟨u, work, ending⟩ := commandRun_of_exec h
  obtain ⟨em, mask⟩ := ending.keeps_buffers
  refine ⟨fun hser hpss hpkcs k => ?em, fun hi k => ?mask, fun hi => ?context⟩
  case em => rw [em, work.keeps_em hser hpss hpkcs]
  case mask => rw [mask, work.keeps_mask hi]
  case context => exact ending.sameContext (work.sameContext hi)

end Sys2Proof.Machine
end

section
/-! The lock of the modulus (R23, R24, R314): while MOD_VALID is 1 neither a command nor the host changes N, RR or NP0, and
MODSET writes what is there already; only a reset clears it. -/

namespace Sys2Proof.Machine

/-- R123: NPrime0 is unique, since the modulus is prime to the limb radix. -/
theorem isNPrime0_unique {p : Params} {n x y : Nat} (hn : n % 2 = 1) (hx : IsNPrime0 p n x) (hy : IsNPrime0 p n y) :
    x = y := by
  have coprime : Nat.gcd (2 ^ p.limbBits) n = 1 :=
    Nat.Coprime.pow_left _ (Nat.coprime_two_left.2 (Nat.odd_iff.2 hn))
  have same : x * n ≡ y * n [MOD 2 ^ p.limbBits] := hx.minus.trans hy.minus.symm
  exact (Nat.ModEq.cancel_right_of_coprime coprime same).eq_of_lt_of_lt hx.bound hy.bound

/-- R124: a repeated MODSET writes what is there already. -/
theorem State.Inv.withContext_eq_self {s : State} (h : s.Inv) (hv : s.status.modValid = true) : s.withContext = s := by
  obtain ⟨rr, isNp0⟩ := h.context hv
  have odd := (h.modulus hv).odd
  have np0 : nPrime0 s.params s.regN = s.np0 := isNPrime0_unique odd (nPrime0_spec h.legal.2.1.1 odd) isNp0
  have status : { s.status with modValid := true } = s.status := by rw [← hv]
  rw [State.withContext, np0, montRR, ← rr, status]

/-- The modulus that MODSET has accepted stands in `t` as in `s`, with its context. -/
def KeepsModulus (s t : State) : Prop :=
  t.status.modValid = true ∧ t.regN = s.regN ∧ t.regRR = s.regRR ∧ t.np0 = s.np0

theorem SameContext.keepsModulus {s t : State} (h : SameContext s t) (hv : s.status.modValid = true)
    (hN : t.regN = s.regN) : KeepsModulus s t := by
  obtain ⟨rr, np0, modValid⟩ := h
  exact ⟨modValid.trans hv, hN, rr, np0⟩

section
variable {s : State} (h : s.Inv) (hv : s.status.modValid = true)
include h hv

theorem CommandWork.sameContext_of_modValid {i : Instr} {u : State} (w : CommandWork s i u) : SameContext s u := by
  by_cases hi : i = .modset
  · subst hi
    cases w with
    | nothing => exact ⟨rfl, rfl, rfl⟩
    | context =>
      rw [h.withContext_eq_self hv]
      exact ⟨rfl, rfl, rfl⟩
  · exact w.sameContext hi

theorem exec_keepsModulus {i : Instr} {t : State} (he : exec i s = .next t) : KeepsModulus s t := by
  obtain ⟨u, work, ending⟩ := commandRun_of_exec he
  obtain ⟨-, regN, -⟩ := commandsKeepTheirInputs i s t he
  exact (ending.sameContext (work.sameContext_of_modValid h hv)).keepsModulus hv regN

theorem coreTurn_keepsModulus {t : State} (hc : coreTurn s = .next t) : KeepsModulus s t := by
  rcases coreTurn_next hc with ⟨-, rfl⟩ | ⟨-, -, rfl⟩ | ⟨-, i, -, he⟩
  · exact ⟨hv, rfl, rfl, rfl⟩
  · exact ⟨hv, rfl, rfl, rfl⟩
  · exact exec_keepsModulus h hv he

end

theorem setBig_keepsModulus {s : State} (hv : s.status.modValid = true) {b : BigReg} (v : Nat)
    (allowed : s.hostMayWriteBig b = true) : KeepsModulus s (s.setBig b v) := by
  cases b with
  | wide => exact ⟨hv, rfl, rfl, rfl⟩
  | reg r =>
    cases r with
    | N => simp [State.hostMayWriteBig, hv] at allowed
    | RR => cases allowed
    | ONE | S | A | B | C => exact ⟨hv, rfl, rfl, rfl⟩

theorem HostEffect.keepsModulus {s t : State} (e : HostEffect s t) (hv : s.status.modValid = true) :
    KeepsModulus s t ∨ t = performReset s := by
  cases e with
  | reset => exact .inr rfl
  | limb b i v idle allowed => exact .inl (setBig_keepsModulus hv _ allowed)
  | byte k => cases k <;> exact .inl ⟨hv, rfl, rfl, rfl⟩
  | same | command | exponent | maskLength => exact .inl ⟨hv, rfl, rfl, rfl⟩

/-- Settles O30: the core's turn keeps the modulus, and the host's keeps it or is a reset. -/
theorem modulusIsLockedUntilReset : Obligations.ModulusIsLockedUntilReset := by
  intro s t h hv hstep
  obtain ⟨rest, hcore | ⟨op, rfl⟩⟩ := step_turn hstep
  · exact .inl (coreTurn_keepsModulus (h.with_events rest) hv hcore)
  · rcases (hostAccess_effect op { s with events := rest }).keepsModulus hv with keeps | reset
    · exact .inl keeps
    · right
      rw [hostTurn, reset]
      exact ⟨_, _, _, rfl⟩

end Sys2Proof.Machine
end

section
/-! The representation: a register's limbs are the digits of its integer (R22), and a canonical buffer is determined by what
it reads (R42). -/

namespace Sys2Proof.Machine

/-- R22: the lowest `n` limbs of `v` hold `v` modulo `2^(w*n)`. -/
theorem sum_limbs (w v : Nat) : ∀ n, ∑ i ∈ Finset.range n, limb w v i * 2 ^ (w * i) = v % 2 ^ (w * n)
  | 0 => by simp [Nat.mod_one]
  | n + 1 => by
    rw [Finset.sum_range_succ, sum_limbs w v n, limb, Nat.mul_succ, Nat.pow_add, Nat.mod_mul,
      Nat.mul_comm (2 ^ (w * n))]

/-- Settles O32: by `sum_limbs` at NUM_LIMBS, where the modulus is the radix. -/
theorem limbsAreTheDigits : Obligations.LimbsAreTheDigits := by
  intro p v hv
  refine ⟨?digits, fun i => Nat.mod_lt _ (Nat.two_pow_pos _)⟩
  case digits =>
    rw [sum_limbs]
    exact (Nat.mod_eq_of_lt hv).symm

namespace Memory

/-- A canonical buffer with a listed byte does not read like one whose listed indices are all higher. -/
theorem read_ne_of_lt {k : Nat} {v : Byte} {m m' : Memory} (hv : v ≠ resetByte) (h' : wfFrom (k + 1) m' = true) :
    read ((k, v) :: m) k ≠ read m' k := by
  rw [read_below h' (Nat.lt_succ_self k), read, if_pos rfl]
  exact hv

theorem wfFrom_cons {lo k : Nat} {v : Byte} {m : Memory} :
    wfFrom lo ((k, v) :: m) = true ↔ lo ≤ k ∧ v ≠ resetByte ∧ wfFrom (k + 1) m = true := by
  simp only [wfFrom, Bool.and_eq_true, decide_eq_true_eq, and_assoc]

/-- Canonical buffers that read alike list the same bytes, entry by entry. -/
theorem eq_of_read_eq : ∀ {m m' : Memory} {lo lo' : Nat}, wfFrom lo m = true → wfFrom lo' m' = true →
    (∀ i, read m i = read m' i) → m = m'
  | [], [], _, _, _, _, _ => rfl
  | [], (k, v) :: m', _, _, _, h', heq => by
    obtain ⟨-, hv, -⟩ := wfFrom_cons.1 h'
    exact absurd (heq k).symm (read_ne_of_lt hv rfl)
  | (k, v) :: m, [], _, _, h, _, heq => by
    obtain ⟨-, hv, -⟩ := wfFrom_cons.1 h
    exact absurd (heq k) (read_ne_of_lt hv rfl)
  | (k, v) :: m, (k', v') :: m', _, _, h, h', heq => by
    obtain ⟨-, hv, hm⟩ := wfFrom_cons.1 h
    obtain ⟨-, hv', hm'⟩ := wfFrom_cons.1 h'
    rcases Nat.lt_trichotomy k k' with lt | rfl | gt
    · exact absurd (heq k) (read_ne_of_lt hv (wfFrom_cons.2 ⟨lt, hv', hm'⟩))
    · have hvv : v = v' := by simpa [read] using heq k
      have tails : ∀ i, read m i = read m' i := by
        intro i
        by_cases hi : i = k
        · rw [hi, read_below hm (Nat.lt_succ_self k), read_below hm' (Nat.lt_succ_self k)]
        · simpa [read, hi] using heq i
      rw [hvv, eq_of_read_eq hm hm' tails]
    · exact absurd (heq k').symm (read_ne_of_lt hv' (wfFrom_cons.2 ⟨gt, hv, hm⟩))

end Memory

/-- Settles O60: the canonical form is the one from index 0 on. -/
theorem equalBuffersAreEqualData : Obligations.EqualBuffersAreEqualData :=
  fun _ _ h h' heq => Memory.eq_of_read_eq h h' heq

end Sys2Proof.Machine
end

section
/-! The control registers (R31 to R41): what each reads while the core is not busy, and when CMD, EXP and MLEN are written. -/

namespace Sys2Proof.Machine

/-! ### The words of STATUS, RESULT and FAULTCODE, field by field -/

theorem getLsbD_append_flag_zero {n : Nat} (x : BitVec n) (b : Bool) : (x ++ flagBit b).getLsbD 0 = b := by
  rw [flagBit, BitVec.getLsbD_append]
  simp

theorem getLsbD_append_flag_succ {n : Nat} (x : BitVec n) (b : Bool) (j : Nat) :
    (x ++ flagBit b).getLsbD (j + 1) = x.getLsbD j := by
  rw [BitVec.getLsbD_append]
  simp

theorem statusWord_getLsbD (f : Status) :
    (statusWord f).getLsbD 0 = f.busy ∧ (statusWord f).getLsbD 1 = f.done ∧ (statusWord f).getLsbD 2 = f.fault ∧
      (statusWord f).getLsbD 3 = f.modValid ∧ (statusWord f).getLsbD 4 = f.resValid ∧
      ∀ j, 5 ≤ j → (statusWord f).getLsbD j = false := by
  unfold statusWord
  refine ⟨?busy, ?done, ?fault, ?modValid, ?resValid, fun j hj => ?above⟩
  case above =>
    obtain ⟨k, rfl⟩ : ∃ k, j = k + 5 := ⟨j - 5, by omega⟩
    simp only [getLsbD_append_flag_succ]
    exact BitVec.getLsbD_zero
  all_goals simp only [getLsbD_append_flag_zero, getLsbD_append_flag_succ]

theorem resultWord_eq (v : Bool) : resultWord v = if v then 1 else 0 := by
  cases v <;> rfl

theorem extractLsb'_append_low {m n : Nat} (x : BitVec m) (y : BitVec n) : (x ++ y).extractLsb' 0 n = y := by
  apply BitVec.eq_of_getLsbD_eq
  intro i hi
  simp [BitVec.getLsbD_append, hi]

theorem extractLsb'_append_high {m n : Nat} (x : BitVec m) (y : BitVec n) (start len : Nat) :
    (x ++ y).extractLsb' (n + start) len = x.extractLsb' start len := by
  apply BitVec.eq_of_getLsbD_eq
  intro i hi
  simp [BitVec.getLsbD_append, Nat.add_assoc]

/-- R271: the code that CAUSE holds, 0 for none. -/
def causeCode : Option Cause → Byte
  | none => 0
  | some c => c.code

theorem faultCodeWord_eq (c : FaultCode) : faultCodeWord c = (0 : BitVec 16) ++ c.opcode ++ causeCode c.cause := by
  obtain ⟨cause, opcode⟩ := c
  cases cause <;> rfl

theorem faultCodeWord_cause (c : FaultCode) : (faultCodeWord c).extractLsb' 0 8 = causeCode c.cause := by
  rw [faultCodeWord_eq]
  exact extractLsb'_append_low _ _

theorem faultCodeWord_opcode (c : FaultCode) : (faultCodeWord c).extractLsb' 8 8 = c.opcode := by
  rw [faultCodeWord_eq]
  exact (extractLsb'_append_high _ _ 0 8).trans (extractLsb'_append_low _ _)

theorem faultCodeWord_zero (c : FaultCode) : (faultCodeWord c).extractLsb' 16 16 = 0 := by
  rw [faultCodeWord_eq]
  exact (extractLsb'_append_high _ _ 8 16).trans ((extractLsb'_append_high _ _ 0 16).trans BitVec.extractLsb'_zero)

/-! ### Reading and writing them -/

theorem csrRead_of_not_busy {s : State} (hb : s.status.busy = false) {k : Nat} {w : Word} (hw : s.csrWord k = some w) :
    hostAccess (.csrRead k) s = (s, .word w) := by
  simp [hostAccess, csrRead, hb, hw]

/-- Settles O54: each read answers its word of `State.csrWord`; STATUS and FAULTCODE field by field. -/
theorem controlRegistersRead : Obligations.ControlRegistersRead := by
  intro s hb
  have reads {k : Nat} {w : Word} (hw : s.csrWord k = some w) := csrRead_of_not_busy hb hw
  obtain ⟨busy, flags⟩ := statusWord_getLsbD s.status
  have code (c : Option Cause) (hc : s.faultCode.cause = c) :
      (faultCodeWord s.faultCode).extractLsb' 0 8 = causeCode c := hc ▸ faultCodeWord_cause s.faultCode
  refine ⟨reads rfl, ⟨_, reads rfl, busy.trans hb, flags⟩, reads rfl, reads rfl, ?result,
    ⟨_, reads rfl, faultCodeWord_opcode _, faultCodeWord_zero _, code _, code _, code _, code _, code _, code _,
      code _, code _, code _⟩, reads rfl, reads rfl, reads rfl, reads rfl, reads rfl, reads rfl⟩
  case result =>
    rw [← resultWord_eq]
    exact reads rfl

/-- Settles O56: CMD, EXP and MLEN ask one question, whether the core is idle (R64). -/
theorem commandWriteIsAcceptedWhenIdle : Obligations.CommandWriteIsAcceptedWhenIdle := by
  intro s w
  refine ⟨fun hb hf => ?accepted, fun hbf => ?refused⟩
  case accepted =>
    have idle : s.status.idle = true := by simp [Status.idle, hb, hf]
    refine ⟨?_, ?_, ?_⟩ <;> exact if_pos idle
  case refused =>
    have notIdle : ¬ s.status.idle = true := by rcases hbf with hb | hf <;> simp [Status.idle, *]
    refine ⟨?_, ?_, ?_⟩ <;> exact if_neg notIdle

end Sys2Proof.Machine
end

section
/-! The host port, access by access (R60 to R68): which elements the numbers of the host name, when an access is answered,
and what every answer is. -/

namespace Sys2Proof.Machine

/-! ### The elements the host's numbers name (R21, R42, R66) -/

/-- The index of a big register in the limb space (R61). -/
def BigReg.index : BigReg → Nat
  | .reg r => r.index.toNat
  | .wide => 8

/-- The id of a buffer (R42). -/
def Buf.id : Buf → Nat
  | .MHASH => 0
  | .EM => 1
  | .SEED => 2
  | .MASK => 3

theorem BigReg.eq_index_of_ofIndex {r : Nat} {b : BigReg} (named : BigReg.ofIndex r = some b) : r = b.index := by
  unfold BigReg.ofIndex at named
  split at named
  case isTrue is8 =>
    cases named
    exact is8
  case isFalse =>
    split at named
    case isTrue below =>
      interval_cases r <;> cases named <;> rfl
    case isFalse => cases named

theorem Buf.eq_id_of_ofId {b : Nat} {k : Buf} (named : Buf.ofId b = some k) : b = k.id := by
  unfold Buf.ofId at named
  split at named <;> cases named <;> rfl

/-- R66: a limb that does not exist. -/
theorem limbCount_le_of_missing {p : Params} {r i : Nat} {b : BigReg} (named : BigReg.ofIndex r = some b)
    (missing : r = 7 ∨ 8 < r ∨ (r < 7 ∧ p.numLimbs ≤ i) ∨ (r = 8 ∧ 2 * p.numLimbs ≤ i)) : limbCount p b ≤ i := by
  have index := BigReg.eq_index_of_ofIndex named
  cases b with
  | wide =>
    simp only [BigReg.index, limbCount] at index ⊢
    omega
  | reg q =>
    have below : r < 7 := by cases q <;> exact index ▸ by decide
    simp only [limbCount]
    omega

/-- R66: a byte that does not exist. -/
theorem bufLen_le_of_missing {p : Params} {b i : Nat} {k : Buf} (named : Buf.ofId b = some k)
    (missing : 3 < b ∨ ((b = 0 ∨ b = 2) ∧ 32 ≤ i) ∨ (b = 1 ∧ p.keyLen ≤ i) ∨ (b = 3 ∧ p.maskCap ≤ i)) :
    bufLen p k ≤ i := by
  have number := Buf.eq_id_of_ofId named
  cases k <;> simp only [Buf.id, bufLen] at number ⊢ <;> omega

theorem State.csrWord_eq_none (s : State) {k : Nat} (hk : k = 7 ∨ 12 < k) : s.csrWord k = none := by
  rcases hk with rfl | above
  · rfl
  · obtain ⟨j, rfl⟩ : ∃ j, k = j + 13 := ⟨k - 13, by omega⟩
    rfl

/-! ### When an access is answered -/

theorem State.idle_iff {s : State} : s.status.idle = true ↔ s.status.busy = false ∧ s.status.fault = false := by
  simp [Status.idle]

theorem State.not_idle {s : State} (h : s.status.busy = true ∨ s.status.fault = true) : s.status.idle ≠ true := by
  rw [Ne, State.idle_iff]
  rcases h with h | h <;> simp [h]

/-- R64: the limb write that takes place. -/
structure LimbWritable (s : State) (b : BigReg) (i v : Nat) : Prop where
  idle    : s.status.idle = true
  allowed : s.hostMayWriteBig b = true
  inside  : i < limbCount s.params b
  isLimb  : v < 2 ^ s.params.limbBits

/-- R64: the byte write that takes place. -/
structure ByteWritable (s : State) (k : Buf) (i : Nat) : Prop where
  idle    : s.status.idle = true
  allowed : k.hostMayWrite = true
  inside  : i < bufLen s.params k

/-- The state and the reply that a host operation can be answered with, and when. -/
inductive HostAnswer (s : State) : HostOp → State × Reply → Prop
  | refused (op : HostOp) : HostAnswer s op (s, .refused)
  | csrRead (k : Nat) (w : Word) (seen : s.status.busy = true → k = 1) (word : s.csrWord k = some w) :
      HostAnswer s (.csrRead k) (s, .word w)
  | control (w : Word) : HostAnswer s (.csrWrite 0 w) (if w.getLsbD 0 then performReset s else s, .ok)
  | command (w : Word) (idle : s.status.idle = true) : HostAnswer s (.csrWrite 2 w) (acceptCommand w s, .ok)
  | exponent (w : Word) (idle : s.status.idle = true) : HostAnswer s (.csrWrite 3 w) ({ s with exp := w }, .ok)
  | maskLength (w : Word) (idle : s.status.idle = true) : HostAnswer s (.csrWrite 6 w) ({ s with mlen := w }, .ok)
  | limbRead (r i : Nat) (b : BigReg) (named : BigReg.ofIndex r = some b) (notBusy : s.status.busy = false)
      (inside : i < limbCount s.params b) :
      HostAnswer s (.limbRead r i) (s, .limb (limb s.params.limbBits (s.big b) i))
  | limbWrite (r i v : Nat) (b : BigReg) (named : BigReg.ofIndex r = some b) (writable : LimbWritable s b i v) :
      HostAnswer s (.limbWrite r i v) (s.setBig b (setLimb s.params.limbBits (s.big b) i v), .ok)
  | byteRead (b i : Nat) (k : Buf) (named : Buf.ofId b = some k) (notBusy : s.status.busy = false)
      (inside : i < bufLen s.params k) : HostAnswer s (.byteRead b i) (s, .byte ((s.buf k).read i))
  | byteWrite (b i : Nat) (v : Byte) (k : Buf) (named : Buf.ofId b = some k) (writable : ByteWritable s k i) :
      HostAnswer s (.byteWrite b i v) (s.setBuf k ((s.buf k).write i v), .ok)
  | reset : HostAnswer s .hardReset (performReset s, .ok)

/-- A write that takes place under a condition, and is refused without it. -/
theorem HostAnswer.of_guard {s : State} {op : HostOp} {a : State × Reply} {c : Bool}
    (accepted : c = true → HostAnswer s op a) : HostAnswer s op (if c then a else (s, .refused)) := by
  split
  · exact accepted ‹_›
  · exact .refused op

theorem csrRead_answer (k : Nat) (s : State) : HostAnswer s (.csrRead k) (csrRead k s) := by
  unfold csrRead
  split
  · exact .refused _
  · rename_i seen
    split
    · exact .csrRead k _ (by simpa using seen) ‹_›
    · exact .refused _

theorem csrWrite_answer (k : Nat) (v : Word) (s : State) : HostAnswer s (.csrWrite k v) (csrWrite k v s) := by
  unfold csrWrite
  split
  case h_1 => exact .control v
  case h_2 => exact .of_guard (.command v)
  case h_3 => exact .of_guard (.exponent v)
  case h_4 => exact .of_guard (.maskLength v)
  case h_5 => exact .refused _

theorem limbRead_answer (r i : Nat) (s : State) : HostAnswer s (.limbRead r i) (limbRead r i s) := by
  unfold limbRead
  split
  · exact .refused _
  · split
    · exact .refused _
    · rename_i hr
      simp only [Bool.or_eq_true, decide_eq_true_eq, not_or, Bool.not_eq_true, Nat.not_le] at hr
      obtain ⟨notBusy, inside⟩ := hr
      exact .limbRead r i _ ‹_› notBusy inside

theorem limbWrite_answer (r i v : Nat) (s : State) : HostAnswer s (.limbWrite r i v) (limbWrite r i v s) := by
  unfold limbWrite
  split
  · exact .refused _
  · refine .of_guard fun writable => ?_
    simp only [Bool.and_eq_true, decide_eq_true_eq] at writable
    obtain ⟨⟨⟨idle, allowed⟩, inside⟩, isLimb⟩ := writable
    exact .limbWrite r i v _ ‹_› ⟨idle, allowed, inside, isLimb⟩

theorem byteRead_answer (b i : Nat) (s : State) : HostAnswer s (.byteRead b i) (byteRead b i s) := by
  unfold byteRead
  split
  · exact .refused _
  · split
    · exact .refused _
    · rename_i hr
      simp only [Bool.or_eq_true, decide_eq_true_eq, not_or, Bool.not_eq_true, Nat.not_le] at hr
      obtain ⟨notBusy, inside⟩ := hr
      exact .byteRead b i _ ‹_› notBusy inside

theorem byteWrite_answer (b i : Nat) (v : Byte) (s : State) :
    HostAnswer s (.byteWrite b i v) (byteWrite b i v s) := by
  unfold byteWrite
  split
  · exact .refused _
  · refine .of_guard fun writable => ?_
    simp only [Bool.and_eq_true, decide_eq_true_eq] at writable
    obtain ⟨⟨idle, allowed⟩, inside⟩ := writable
    exact .byteWrite b i v _ ‹_› ⟨idle, allowed, inside⟩

theorem hostAccess_answer (op : HostOp) (s : State) : HostAnswer s op (hostAccess op s) := by
  cases op with
  | csrRead k => exact csrRead_answer k s
  | csrWrite k v => exact csrWrite_answer k v s
  | limbRead r i => exact limbRead_answer r i s
  | limbWrite r i v => exact limbWrite_answer r i v s
  | byteRead b i => exact byteRead_answer b i s
  | byteWrite b i v => exact byteWrite_answer b i v s
  | hardReset => exact .reset

theorem limbRead_of_not_busy {s : State} {r i : Nat} {b : BigReg} (named : BigReg.ofIndex r = some b)
    (notBusy : s.status.busy = false) (inside : i < limbCount s.params b) :
    limbRead r i s = (s, .limb (limb s.params.limbBits (s.big b) i)) := by
  simp [limbRead, named, notBusy, inside]

theorem byteRead_of_not_busy {s : State} {b i : Nat} {k : Buf} (named : Buf.ofId b = some k)
    (notBusy : s.status.busy = false) (inside : i < bufLen s.params k) :
    byteRead b i s = (s, .byte ((s.buf k).read i)) := by
  simp [byteRead, named, notBusy, inside]

theorem limbWrite_of_writable {s : State} {r i v : Nat} {b : BigReg} (named : BigReg.ofIndex r = some b)
    (h : LimbWritable s b i v) :
    limbWrite r i v s = (s.setBig b (setLimb s.params.limbBits (s.big b) i v), .ok) := by
  simp [limbWrite, named, h.idle, h.allowed, h.inside, h.isLimb]

theorem byteWrite_of_writable {s : State} {b i : Nat} {v : Byte} {k : Buf} (named : Buf.ofId b = some k)
    (h : ByteWritable s k i) : byteWrite b i v s = (s.setBuf k ((s.buf k).write i v), .ok) := by
  simp [byteWrite, named, h.idle, h.allowed, h.inside]

/-! ### Refusals -/

/-- An access that has no other answer is refused. -/
theorem hostAccess_refused {op : HostOp} {s : State} (only : ∀ a, HostAnswer s op a → a = (s, .refused)) :
    hostAccess op s = (s, .refused) :=
  only _ (hostAccess_answer op s)

/-- Settles O51: the one answer with the reply `refused` keeps the state. -/
theorem refusedAccessChangesNothing : Obligations.RefusedAccessChangesNothing := by
  intro op s refused
  have answer := hostAccess_answer op s
  generalize hostAccess op s = a at answer refused
  cases answer with
  | refused => rfl
  | csrRead | limbRead | byteRead => rfl
  | control | command | exponent | maskLength | limbWrite | byteWrite | reset => cases refused

/-- Settles O52: STATUS reads `statusWord`; of the other answers each asks for a core that is not busy, or is excepted. -/
theorem busyBlockAnswersStatusOnly : Obligations.BusyBlockAnswersStatusOnly := by
  intro op s busy
  refine ⟨fun hop => ?status, fun notStatus notReset notControl => hostAccess_refused fun a answer => ?others⟩
  case status =>
    subst hop
    obtain ⟨bit0, flags⟩ := statusWord_getLsbD s.status
    refine ⟨statusWord s.status, ?_, bit0.trans busy, flags⟩
    simp [hostAccess, csrRead, State.csrWord]
  case others =>
    have notIdle : s.status.idle ≠ true := State.not_idle (.inl busy)
    have notBusy : s.status.busy ≠ false := by simp [busy]
    cases answer with
    | refused => rfl
    | csrRead k w seen => exact absurd (congrArg HostOp.csrRead (seen busy)) notStatus
    | control w => exact absurd rfl (notControl w)
    | reset => exact absurd rfl notReset
    | command w idle => exact absurd idle notIdle
    | exponent w idle => exact absurd idle notIdle
    | maskLength w idle => exact absurd idle notIdle
    | limbWrite r i v b named writable => exact absurd writable.idle notIdle
    | byteWrite b i v k named writable => exact absurd writable.idle notIdle
    | limbRead r i b named idle => exact absurd idle notBusy
    | byteRead b i k named idle => exact absurd idle notBusy

theorem csrRead_refused (s : State) {k : Nat} (missing : s.csrWord k = none) :
    hostAccess (.csrRead k) s = (s, .refused) :=
  hostAccess_refused fun a answer => by
    cases answer with
    | refused => rfl
    | csrRead k w seen word => cases missing.symm.trans word

/-- R67: only CTRL, CMD, EXP and MLEN are written. -/
theorem csrWrite_refused (s : State) {k : Nat} (v : Word) (hk : k ≠ 0 ∧ k ≠ 2 ∧ k ≠ 3 ∧ k ≠ 6) :
    hostAccess (.csrWrite k v) s = (s, .refused) :=
  hostAccess_refused fun a answer => by
    obtain ⟨h0, h2, h3, h6⟩ := hk
    cases answer with
    | refused => rfl
    | control => exact absurd rfl h0
    | command => exact absurd rfl h2
    | exponent => exact absurd rfl h3
    | maskLength => exact absurd rfl h6

theorem limbRead_refused {s : State} {r i : Nat}
    (missing : ∀ b, BigReg.ofIndex r = some b → limbCount s.params b ≤ i) :
    hostAccess (.limbRead r i) s = (s, .refused) :=
  hostAccess_refused fun a answer => by
    cases answer with
    | refused => rfl
    | limbRead r i b named notBusy inside => exact absurd inside (missing b named).not_gt

theorem limbWrite_refused {s : State} {r i v : Nat}
    (notWritable : ∀ b, BigReg.ofIndex r = some b → ¬ LimbWritable s b i v) :
    hostAccess (.limbWrite r i v) s = (s, .refused) :=
  hostAccess_refused fun a answer => by
    cases answer with
    | refused => rfl
    | limbWrite r i v b named writable => exact absurd writable (notWritable b named)

theorem byteRead_refused {s : State} {b i : Nat} (missing : ∀ k, Buf.ofId b = some k → bufLen s.params k ≤ i) :
    hostAccess (.byteRead b i) s = (s, .refused) :=
  hostAccess_refused fun a answer => by
    cases answer with
    | refused => rfl
    | byteRead b i k named notBusy inside => exact absurd inside (missing k named).not_gt

theorem byteWrite_refused {s : State} {b i : Nat} {v : Byte}
    (notWritable : ∀ k, Buf.ofId b = some k → ¬ ByteWritable s k i) :
    hostAccess (.byteWrite b i v) s = (s, .refused) :=
  hostAccess_refused fun a answer => by
    cases answer with
    | refused => rfl
    | byteWrite b i v k named writable => exact absurd writable (notWritable k named)

/-- R67: RR and ONE are never the host's to write, nor is N once MODSET has accepted it. -/
theorem not_hostMayWriteBig {s : State} {r : Nat} {b : BigReg} (named : BigReg.ofIndex r = some b)
    (readOnly : r = 1 ∨ r = 2 ∨ (r = 0 ∧ s.status.modValid = true)) : s.hostMayWriteBig b ≠ true := by
  rcases readOnly with rfl | rfl | ⟨rfl, locked⟩ <;> cases named
  · exact Bool.false_ne_true
  · exact Bool.false_ne_true
  · simp [State.hostMayWriteBig, locked]

/-- Settles O53: what is missing has no number, no limb or no byte of its own, and a read-only element is not writable. -/
theorem missingAndReadOnlyElementsAreRefused : Obligations.MissingAndReadOnlyElementsAreRefused := by
  intro s
  have refused {op : HostOp} (h : hostAccess op s = (s, .refused)) : (hostAccess op s).2 = .refused := by rw [h]
  refine ⟨fun k hk => ⟨?csrRead, fun v => ?csrWrite⟩, fun k v hk => ?readOnlyCsr,
    fun r i missing => ⟨?limbRead, fun v => ?limbWrite⟩, fun r i v readOnly => ?readOnlyReg,
    fun b i missing => ⟨?byteRead, fun v => ?byteWrite⟩, fun i v => ?readOnlyBuf⟩
  case csrRead => exact refused (csrRead_refused s (s.csrWord_eq_none hk))
  case csrWrite => exact refused (csrWrite_refused s v (by omega))
  case readOnlyCsr => exact refused (csrWrite_refused s v (by omega))
  case limbRead => exact refused (limbRead_refused fun b named => limbCount_le_of_missing named missing)
  case limbWrite =>
    exact refused (limbWrite_refused fun b named h => h.inside.not_ge (limbCount_le_of_missing named missing))
  case readOnlyReg =>
    exact refused (limbWrite_refused fun b named h => not_hostMayWriteBig named readOnly h.allowed)
  case byteRead => exact refused (byteRead_refused fun k named => bufLen_le_of_missing named missing)
  case byteWrite =>
    exact refused (byteWrite_refused fun k named h => h.inside.not_ge (bufLen_le_of_missing named missing))
  case readOnlyBuf =>
    refine refused (byteWrite_refused fun k named h => ?_)
    cases named
    exact Bool.false_ne_true h.allowed

/-- Settles O55: each number names its element, which is inside. -/
theorem readsAreAnsweredWhenNotBusy : Obligations.ReadsAreAnsweredWhenNotBusy := by
  intro s notBusy
  have limbs {r i : Nat} (b : BigReg) (named : BigReg.ofIndex r = some b) (inside : i < limbCount s.params b) :=
    limbRead_of_not_busy named notBusy inside
  have bytes {b i : Nat} (k : Buf) (named : Buf.ofId b = some k) (inside : i < bufLen s.params k) :=
    byteRead_of_not_busy named notBusy inside
  refine ⟨fun i hi => ?registers, fun i hi => limbs .wide rfl hi,
    fun i hi => ⟨bytes .MHASH rfl hi, bytes .SEED rfl hi⟩, fun i hi => bytes .EM rfl hi, fun i hi => bytes .MASK rfl hi⟩
  case registers =>
    exact ⟨limbs (.reg .N) rfl hi, limbs (.reg .RR) rfl hi, limbs (.reg .ONE) rfl hi, limbs (.reg .S) rfl hi,
      limbs (.reg .A) rfl hi, limbs (.reg .B) rfl hi, limbs (.reg .C) rfl hi⟩

end Sys2Proof.Machine
end

section
/-! A write of the host and a read after it (R62 to R64): what is written is read back, and every other element answers as
before. -/

namespace Sys2Proof.Machine

/-! ### The updates of a big register and of a buffer, field by field -/

section
variable (s : State) (b : BigReg) (v : Nat)

@[simp] theorem setBig_params : (s.setBig b v).params = s.params := by
  cases b with
  | reg r => exact setBn_params s r v
  | wide => rfl

@[simp] theorem setBig_status : (s.setBig b v).status = s.status := by
  cases b with
  | reg r => exact setBn_status s r v
  | wide => rfl

@[simp] theorem setBig_np0 : (s.setBig b v).np0 = s.np0 := by
  cases b with
  | reg r => exact setBn_np0 s r v
  | wide => rfl

@[simp] theorem setBig_events : (s.setBig b v).events = s.events := by
  cases b with
  | reg r => exact setBn_events s r v
  | wide => rfl

@[simp] theorem setBig_buf (k : Buf) : (s.setBig b v).buf k = s.buf k := by
  cases b with
  | reg r => cases k <;> simp [State.setBig, State.buf]
  | wide => cases k <;> rfl

@[simp] theorem setBig_csrWord (k : Nat) : (s.setBig b v).csrWord k = s.csrWord k := by
  cases b with
  | reg r => cases r <;> rfl
  | wide => rfl

/-- R11: a write leaves every other big register as it was. -/
theorem setBig_big_other {c : BigReg} (hc : c ≠ b) : (s.setBig b v).big c = s.big c := by
  cases b with
  | wide =>
    cases c with
    | wide => exact absurd rfl hc
    | reg q => cases q <;> rfl
  | reg r =>
    cases c with
    | wide => exact setBn_regT s r v
    | reg q =>
      have hq : q ≠ r := fun e => hc (congrArg BigReg.reg e)
      exact (setBn_bn s r v q).trans (if_neg fun h => hq h.1)

/-- A register that the host may write is read back (ONE is none, R25). -/
theorem setBig_big_same {b : BigReg} (allowed : s.hostMayWriteBig b = true) : (s.setBig b v).big b = v := by
  cases b with
  | wide => rfl
  | reg r =>
    have notOne : r ≠ .ONE := by rintro rfl; cases allowed
    exact (setBn_bn s r v r).trans (if_pos ⟨rfl, notOne⟩)

end

section
variable (s : State) (k : Buf) (m : Memory)

@[simp] theorem setBuf_params : (s.setBuf k m).params = s.params := by cases k <;> rfl
@[simp] theorem setBuf_status : (s.setBuf k m).status = s.status := by cases k <;> rfl
@[simp] theorem setBuf_np0 : (s.setBuf k m).np0 = s.np0 := by cases k <;> rfl
@[simp] theorem setBuf_events : (s.setBuf k m).events = s.events := by cases k <;> rfl
@[simp] theorem setBuf_csrWord (j : Nat) : (s.setBuf k m).csrWord j = s.csrWord j := by cases k <;> rfl

@[simp] theorem setBuf_big (b : BigReg) : (s.setBuf k m).big b = s.big b := by
  cases b with
  | wide => cases k <;> rfl
  | reg r => cases k <;> cases r <;> rfl

theorem setBuf_buf (j : Buf) : (s.setBuf k m).buf j = if j = k then m else s.buf j := by
  cases k <;> cases j <;> rfl

end

theorem State.Inv.buf_wf {s : State} (h : s.Inv) (k : Buf) : (s.buf k).wf = true := by
  cases k with
  | MHASH => exact h.mhashOk.1
  | EM => exact h.emOk.1
  | SEED => exact h.seedOk.1
  | MASK => exact h.maskOk.1

/-! ### A read answers alike in two states that agree on what it looks at -/

section
variable {s t : State} (params : t.params = s.params) (status : t.status = s.status)
include status

theorem csrRead_reply_congr {k : Nat} (word : t.csrWord k = s.csrWord k) :
    (csrRead k t).2 = (csrRead k s).2 := by
  unfold csrRead
  rw [status, word]
  split
  · rfl
  · split <;> rfl

include params

theorem limbRead_reply_congr {r i : Nat} (same : ∀ b, BigReg.ofIndex r = some b →
    limb s.params.limbBits (t.big b) i = limb s.params.limbBits (s.big b) i) :
    (limbRead r i t).2 = (limbRead r i s).2 := by
  unfold limbRead
  cases named : BigReg.ofIndex r with
  | none => rfl
  | some b =>
    dsimp only
    rw [params, status, same b named]
    split <;> rfl

theorem byteRead_reply_congr {b i : Nat} (same : ∀ k, Buf.ofId b = some k → (t.buf k).read i = (s.buf k).read i) :
    (byteRead b i t).2 = (byteRead b i s).2 := by
  unfold byteRead
  cases named : Buf.ofId b with
  | none => rfl
  | some k =>
    dsimp only
    rw [params, status, same k named]
    split <;> rfl

end

/-! ### A limb -/

/-- An accepted limb write: the register it names, the conditions of R64 and the state it leaves. -/
theorem limbWrite_accepted {s : State} {r i v : Nat} (ok : (hostAccess (.limbWrite r i v) s).2 = .ok) :
    ∃ b, BigReg.ofIndex r = some b ∧ LimbWritable s b i v ∧
      (hostAccess (.limbWrite r i v) s).1 = s.setBig b (setLimb s.params.limbBits (s.big b) i v) := by
  have answer := hostAccess_answer (.limbWrite r i v) s
  generalize hostAccess (.limbWrite r i v) s = a at answer ok
  cases answer with
  | refused => cases ok
  | limbWrite r i v b named writable => exact ⟨b, named, writable, rfl⟩

/-- R62, R63: a limb read after an accepted limb write. -/
theorem limbRead_setBig_setLimb {s : State} {r i v : Nat} {b : BigReg} (named : BigReg.ofIndex r = some b)
    (h : LimbWritable s b i v) (r' i' : Nat) :
    (limbRead r' i' (s.setBig b (setLimb s.params.limbBits (s.big b) i v))).2 =
      if r' = r ∧ i' = i then .limb v else (limbRead r' i' s).2 := by
  have written (j : Nat) : limb s.params.limbBits
      ((s.setBig b (setLimb s.params.limbBits (s.big b) i v)).big b) j =
        if j = i then v else limb s.params.limbBits (s.big b) j := by
    rw [setBig_big_same s _ h.allowed]
    exact limb_setLimb h.isLimb j
  split
  case isTrue same =>
    obtain ⟨rfl, rfl⟩ := same
    have notBusy := (State.idle_iff.1 h.idle).1
    rw [limbRead_of_not_busy named (by simpa using notBusy) (by simpa using h.inside), setBig_params, written, if_pos rfl]
  case isFalse other =>
    refine limbRead_reply_congr (setBig_params s b _) (setBig_status s b _) fun c namedC => ?_
    by_cases hc : c = b
    · subst hc
      have sameReg : r' = r := (BigReg.eq_index_of_ofIndex namedC).trans (BigReg.eq_index_of_ofIndex named).symm
      rw [written, if_neg fun hi => other ⟨sameReg, hi⟩]
    · rw [setBig_big_other s b _ hc]

/-- R64, R67: the big registers that an idle core lets the host write. -/
theorem limbWritable_of_idle {s : State} {r i v : Nat} (idle : s.status.idle = true)
    (isLimb : v < 2 ^ s.params.limbBits)
    (element : (((3 ≤ r ∧ r ≤ 6) ∨ (r = 0 ∧ s.status.modValid = false)) ∧ i < s.params.numLimbs) ∨
      (r = 8 ∧ i < 2 * s.params.numLimbs)) : ∃ b, BigReg.ofIndex r = some b ∧ LimbWritable s b i v := by
  rcases element with ⟨⟨low, high⟩ | ⟨rfl, unlocked⟩, inside⟩ | ⟨rfl, inside⟩
  · interval_cases r
    · exact ⟨.reg .S, rfl, idle, rfl, inside, isLimb⟩
    · exact ⟨.reg .A, rfl, idle, rfl, inside, isLimb⟩
    · exact ⟨.reg .B, rfl, idle, rfl, inside, isLimb⟩
    · exact ⟨.reg .C, rfl, idle, rfl, inside, isLimb⟩
  · exact ⟨.reg .N, rfl, idle, by simp [State.hostMayWriteBig, unlocked], inside, isLimb⟩
  · exact ⟨.wide, rfl, idle, rfl, inside, isLimb⟩

/-- Settles O58: `limbRead_setBig_setLimb` for the limbs, and the fields of `State.setBig` for all else. -/
theorem limbWriteThenRead : Obligations.LimbWriteThenRead := by
  intro s r i v
  refine ⟨fun notBusy noFault isLimb element => ?accepted, fun hbf => ?refused, fun ok => ?after⟩
  case accepted =>
    obtain ⟨b, named, writable⟩ := limbWritable_of_idle (State.idle_iff.2 ⟨notBusy, noFault⟩) isLimb element
    exact congrArg Prod.snd (limbWrite_of_writable named writable)
  case refused => rw [limbWrite_refused fun b _ h => State.not_idle hbf h.idle]
  case after =>
    obtain ⟨b, named, writable, left⟩ := limbWrite_accepted ok
    rw [left]
    refine ⟨limbRead_setBig_setLimb named writable, fun k j => ?buffers, fun k => ?csrs, setBig_np0 s b _⟩
    case buffers => rw [setBig_buf]
    case csrs => exact csrRead_reply_congr (setBig_status s b _) (setBig_csrWord s b _ k)

/-! ### A byte -/

/-- An accepted byte write: the buffer it names, the conditions of R64 and the state it leaves. -/
theorem byteWrite_accepted {s : State} {b i : Nat} {v : Byte} (ok : (hostAccess (.byteWrite b i v) s).2 = .ok) :
    ∃ k, Buf.ofId b = some k ∧ ByteWritable s k i ∧
      (hostAccess (.byteWrite b i v) s).1 = s.setBuf k ((s.buf k).write i v) := by
  have answer := hostAccess_answer (.byteWrite b i v) s
  generalize hostAccess (.byteWrite b i v) s = a at answer ok
  cases answer with
  | refused => cases ok
  | byteWrite b i v k named writable => exact ⟨k, named, writable, rfl⟩

/-- R62, R63: a byte read after an accepted byte write; a read of a canonical buffer sees each write (R42). -/
theorem byteRead_setBuf_write {s : State} (canonical : ∀ k, (s.buf k).wf = true) {b i : Nat} {v : Byte} {k : Buf}
    (named : Buf.ofId b = some k) (h : ByteWritable s k i) (b' i' : Nat) :
    (byteRead b' i' (s.setBuf k ((s.buf k).write i v))).2 =
      if b' = b ∧ i' = i then .byte v else (byteRead b' i' s).2 := by
  have written (j : Nat) : ((s.setBuf k ((s.buf k).write i v)).buf k).read j = if j = i then v else (s.buf k).read j := by
    rw [setBuf_buf, if_pos rfl]
    exact Memory.read_write (canonical k) i v j
  split
  case isTrue same =>
    obtain ⟨rfl, rfl⟩ := same
    have notBusy := (State.idle_iff.1 h.idle).1
    rw [byteRead_of_not_busy named (by simpa using notBusy) (by simpa using h.inside), written, if_pos rfl]
  case isFalse other =>
    refine byteRead_reply_congr (setBuf_params s k _) (setBuf_status s k _) fun c namedC => ?_
    by_cases hc : c = k
    · subst hc
      have sameBuf : b' = b := (Buf.eq_id_of_ofId namedC).trans (Buf.eq_id_of_ofId named).symm
      rw [written, if_neg fun hi => other ⟨sameBuf, hi⟩]
    · rw [setBuf_buf, if_neg hc]

/-- R64, R67: the buffers that an idle core lets the host write. -/
theorem byteWritable_of_idle {s : State} {b i : Nat} (idle : s.status.idle = true)
    (element : ((b = 0 ∨ b = 2) ∧ i < 32) ∨ (b = 1 ∧ i < s.params.keyLen)) :
    ∃ k, Buf.ofId b = some k ∧ ByteWritable s k i := by
  rcases element with ⟨rfl | rfl, inside⟩ | ⟨rfl, inside⟩
  · exact ⟨.MHASH, rfl, idle, rfl, inside⟩
  · exact ⟨.SEED, rfl, idle, rfl, inside⟩
  · exact ⟨.EM, rfl, idle, rfl, inside⟩

/-- Settles O59: `byteRead_setBuf_write` for the bytes, and the fields of `State.setBuf` for all else. -/
theorem byteWriteThenRead : Obligations.ByteWriteThenRead := by
  intro s b i v
  refine ⟨fun notBusy noFault element => ?accepted, fun hbf => ?refused, fun sound ok => ?after⟩
  case accepted =>
    obtain ⟨k, named, writable⟩ := byteWritable_of_idle (State.idle_iff.2 ⟨notBusy, noFault⟩) element
    exact congrArg Prod.snd (byteWrite_of_writable named writable)
  case refused => rw [byteWrite_refused fun k _ h => State.not_idle hbf h.idle]
  case after =>
    obtain ⟨k, named, writable, left⟩ := byteWrite_accepted ok
    rw [left]
    refine ⟨byteRead_setBuf_write sound.buf_wf named writable, fun r j => ?limbs, fun j => ?csrs, setBuf_np0 s k _⟩
    case limbs =>
      exact limbRead_reply_congr (setBuf_params s k _) (setBuf_status s k _) fun c _ => by rw [setBuf_big]
    case csrs => exact csrRead_reply_congr (setBuf_status s k _) (setBuf_csrWord s k _ j)

end Sys2Proof.Machine
end

section
/-! The order of events (R73): a step is the turn of the event that comes first. -/

namespace Sys2Proof.Machine

theorem coreTurn_of_decode {s : State} {i : Instr} (busy : s.status.busy = true) (word : decode s.cmd = .ok i) :
    coreTurn s = exec i s := by
  simp [coreTurn, busy, word]

theorem step_of_no_event {s : State} (noEvent : s.events = []) : step s = coreTurn s := by
  simp [step, noEvent]

theorem step_of_core_first {s : State} {rest : List Event} (first : s.events = .core :: rest) :
    step s = coreTurn { s with events := rest } := by
  simp [step, first]

theorem step_of_host_first {s : State} {op : HostOp} {rest : List Event} (first : s.events = .host op :: rest) :
    step s = .next (hostTurn op { s with events := rest }) := by
  simp [step, first]

/-- The model's word of 32 bits is the number's own word (R90). -/
theorem tableWord_of_lt {w : Nat} (hw : w < 2 ^ 32) : tableWord 32 w = BitVec.ofNat 32 w := by
  rw [tableWord, Nat.mod_eq_of_lt hw]

theorem HostEffect.keeps_events {s t : State} (e : HostEffect s t) : t.events = s.events := by
  cases e with
  | limb b i v => exact setBig_events s b _
  | byte k i v => exact setBuf_events s k _
  | same | reset | command | exponent | maskLength => rfl

/-- Settles O6: the core's turn on the state with its event taken off, or the host's; no host operation touches the list. -/
theorem stepRunsDecodedCommand : Obligations.StepRunsDecodedCommand := by
  refine ⟨fun s i busy word noEvent => ?noEvent, fun s i rest busy word first => ?coreFirst, fun s w i hw word => ?fetched,
    fun s op rest first => ⟨?events, ?hostFirst⟩⟩
  case noEvent => exact (step_of_no_event noEvent).trans (coreTurn_of_decode busy word)
  case coreFirst => exact (step_of_core_first first).trans (coreTurn_of_decode busy word)
  case fetched =>
    rw [State.withFetchWord, tableWord_of_lt hw]
    exact (step_of_core_first rfl).trans (coreTurn_of_decode rfl word)
  case events => exact (hostAccess_effect op _).keeps_events
  case hostFirst => exact step_of_host_first first

end Sys2Proof.Machine
end

section
/-! The encoding of commands (R90 to R97). What decodes is the word packed from its own fields (R90), so a format's answer
and the layout together give both directions of the round trip; and the words that decode are those whose fields the row
of their opcode admits (R95). -/

namespace Sys2Proof

/-! ### The layout of a word (R90) -/

@[simp] theorem packWord_opcode (op : Byte) (rd ra rb : BitVec 4) : (packWord op rd ra rb).opcode = op :=
  BitVec.extractLsb'_append_eq_right

@[simp] theorem packWord_rd (op : Byte) (rd ra rb : BitVec 4) : (packWord op rd ra rb).rd = rd :=
  (BitVec.extractLsb'_append_eq_of_le (by decide)).trans BitVec.extractLsb'_append_eq_right

@[simp] theorem packWord_ra (op : Byte) (rd ra rb : BitVec 4) : (packWord op rd ra rb).ra = ra :=
  (BitVec.extractLsb'_append_eq_of_le (by decide)).trans <|
    (BitVec.extractLsb'_append_eq_of_le (by decide)).trans BitVec.extractLsb'_append_eq_right

@[simp] theorem packWord_rb (op : Byte) (rd ra rb : BitVec 4) : (packWord op rd ra rb).rb = rb :=
  (BitVec.extractLsb'_append_eq_of_le (by decide)).trans <|
    (BitVec.extractLsb'_append_eq_of_le (by decide)).trans <|
      (BitVec.extractLsb'_append_eq_of_le (by decide)).trans BitVec.extractLsb'_append_eq_right

@[simp] theorem packWord_zero (op : Byte) (rd ra rb : BitVec 4) : (packWord op rd ra rb).zero = 0 :=
  (BitVec.extractLsb'_append_eq_of_le (by decide)).trans <|
    (BitVec.extractLsb'_append_eq_of_le (by decide)).trans <|
      (BitVec.extractLsb'_append_eq_of_le (by decide)).trans BitVec.extractLsb'_append_eq_left

/-- The five fields are the whole word. -/
theorem packWord_fields {w : Word} (zero : w.zero = 0) : packWord w.opcode w.rd w.ra w.rb = w := by
  rw [packWord, ← zero, Word.opcode, Word.rd, Word.ra, Word.rb, Word.zero]
  iterate 4 rw [BitVec.extractLsb'_append_extractLsb'_eq_extractLsb' (by rfl)]
  exact BitVec.extractLsb'_eq_self

theorem packWord_eq {w : Word} {op : Byte} {rd ra rb : BitVec 4} (zero : w.zero = 0) (opcode : w.opcode = op)
    (hrd : w.rd = rd) (hra : w.ra = ra) (hrb : w.rb = rb) : packWord op rd ra rb = w := by
  rw [← opcode, ← hrd, ← hra, ← hrb, packWord_fields zero]

/-! ### Register fields (R21, R91, R96) -/

theorem Reg.ofIndex_eq_some_iff {k : BitVec 4} {r : Reg} : Reg.ofIndex k = some r ↔ k = r.index := by
  revert k
  cases r <;> decide

theorem Reg.exists_index_iff {k : BitVec 4} : (∃ r : Reg, k = r.index) ↔ k.toNat ≤ 6 := by
  simp only [← Reg.ofIndex_eq_some_iff, ← Option.isSome_iff_exists]
  revert k
  decide

theorem Reg.isDest_iff {r : Reg} : r.isDest = true ↔ 4 ≤ r.index.toNat := by
  cases r <;> decide

theorem Reg.exists_dest_iff {k : BitVec 4} :
    (∃ r : Reg, r.isDest = true ∧ k = r.index) ↔ 4 ≤ k.toNat ∧ k.toNat ≤ 6 := by
  constructor
  · rintro ⟨r, dest, named⟩
    exact ⟨named ▸ Reg.isDest_iff.1 dest, Reg.exists_index_iff.1 ⟨r, named⟩⟩
  · rintro ⟨low, high⟩
    obtain ⟨r, rfl⟩ := Reg.exists_index_iff.2 high
    exact ⟨r, Reg.isDest_iff.2 low, rfl⟩

theorem sourceField_eq_ok_iff {k : BitVec 4} {r : Reg} : sourceField k = .ok r ↔ k = r.index := by
  rw [← Reg.ofIndex_eq_some_iff, sourceField]
  split
  case h_1 q named => simp [named]
  case h_2 unnamed => simp [unnamed]

theorem destField_eq_ok_iff {k : BitVec 4} {r : Reg} : destField k = .ok r ↔ r.isDest = true ∧ k = r.index := by
  rw [← Reg.ofIndex_eq_some_iff, destField]
  split
  case h_1 q named =>
    rw [named, Option.some_inj]
    split
    case isTrue dest => exact ⟨fun h => by cases h; exact ⟨dest, rfl⟩, fun h => congrArg Except.ok h.2⟩
    case isFalse noDest => exact ⟨nofun, fun h => absurd (h.2 ▸ h.1) noDest⟩
  case h_2 unnamed => simp [unnamed]

theorem unusedField_eq_ok_iff {k : BitVec 4} {u : Unit} : unusedField k = .ok u ↔ k = 0 := by
  rw [unusedField]
  split
  case isTrue zero => exact ⟨fun _ => zero, fun _ => rfl⟩
  case isFalse notZero => exact ⟨nofun, fun zero => absurd zero notZero⟩

/-! ### What each format answers (R91) -/

theorem bind_eq_ok_iff {ε α β : Type} {x : Except ε α} {f : α → Except ε β} {b : β} :
    x >>= f = .ok b ↔ ∃ a, x = .ok a ∧ f a = .ok b := by
  cases x <;> simp [bind, Except.bind]

section
variable {w : Word} {i : Instr}

theorem formatZ_eq_ok_iff {j : Instr} : formatZ w j = .ok i ↔ w.rd = 0 ∧ w.ra = 0 ∧ w.rb = 0 ∧ j = i := by
  simp only [formatZ, bind_eq_ok_iff, unusedField_eq_ok_iff, exists_const, Except.ok.injEq]

theorem formatD_eq_ok_iff {f : Reg → Instr} :
    formatD w f = .ok i ↔ w.ra = 0 ∧ w.rb = 0 ∧ ∃ rd, (rd.isDest = true ∧ w.rd = rd.index) ∧ f rd = i := by
  simp only [formatD, bind_eq_ok_iff, unusedField_eq_ok_iff, destField_eq_ok_iff, exists_const, Except.ok.injEq]

theorem formatA_eq_ok_iff {f : Reg → Instr} :
    formatA w f = .ok i ↔ w.rd = 0 ∧ w.rb = 0 ∧ ∃ ra, w.ra = ra.index ∧ f ra = i := by
  simp only [formatA, bind_eq_ok_iff, unusedField_eq_ok_iff, sourceField_eq_ok_iff, exists_const, Except.ok.injEq]

theorem formatAB_eq_ok_iff {f : Reg → Reg → Instr} :
    formatAB w f = .ok i ↔ w.rd = 0 ∧ ∃ ra, w.ra = ra.index ∧ ∃ rb, w.rb = rb.index ∧ f ra rb = i := by
  simp only [formatAB, bind_eq_ok_iff, unusedField_eq_ok_iff, sourceField_eq_ok_iff, exists_const, Except.ok.injEq]

theorem formatDAB_eq_ok_iff {f : Reg → Reg → Reg → Instr} :
    formatDAB w f = .ok i ↔ ∃ rd, (rd.isDest = true ∧ w.rd = rd.index) ∧
      ∃ ra, w.ra = ra.index ∧ ∃ rb, w.rb = rb.index ∧ f rd ra rb = i := by
  simp only [formatDAB, bind_eq_ok_iff, sourceField_eq_ok_iff, destField_eq_ok_iff, Except.ok.injEq]

end

/-! ### The round trip (R94, R95) -/

theorem zero_of_decode {w : Word} {i : Instr} (decoded : decode w = .ok i) : w.zero = 0 := by
  by_contra notZero
  rw [decode, if_pos notZero] at decoded
  cases decoded

/-- Settles O1, command by command: the packed word has the command's opcode, and its format reads the operands back. -/
theorem decodeOfEncode : Obligations.DecodeOfEncode := by
  intro i legal
  cases i with
  | nop | modset | modexp | mgf1 | psschk | pkcschk | verifypss | verifypkcs =>
    simp [encode, decode, formatZ_eq_ok_iff]
  | redc rd =>
    have dest : rd.isDest = true := legal
    simp [encode, decode, formatD_eq_ok_iff, dest]
  | serbe ra => simp [encode, decode, formatA_eq_ok_iff]
  | mul ra rb => simp [encode, decode, formatAB_eq_ok_iff]
  | mmul rd ra rb | modmul rd ra rb =>
    have dest : rd.isDest = true := legal
    simp [encode, decode, formatDAB_eq_ok_iff, dest]

/-- Settles O2, arm by arm of the decoder: the format's answer gives every field of the word, and the fields are the whole
word (`packWord_fields`). -/
theorem encodeOfDecode : Obligations.EncodeOfDecode := by
  intro w i decoded
  have zero := zero_of_decode decoded
  rw [decode, if_neg (not_not.2 zero)] at decoded
  split at decoded
  case h_3 opcode =>
    obtain ⟨hrd, ra, hra, rb, hrb, rfl⟩ := formatAB_eq_ok_iff.1 decoded
    exact ⟨packWord_eq zero (BitVec.eq_of_toNat_eq opcode) hrd hra hrb, rfl⟩
  case h_4 opcode =>
    obtain ⟨hra, hrb, rd, ⟨dest, hrd⟩, rfl⟩ := formatD_eq_ok_iff.1 decoded
    exact ⟨packWord_eq zero (BitVec.eq_of_toNat_eq opcode) hrd hra hrb, dest⟩
  case h_5 opcode | h_6 opcode =>
    obtain ⟨rd, ⟨dest, hrd⟩, ra, hra, rb, hrb, rfl⟩ := formatDAB_eq_ok_iff.1 decoded
    exact ⟨packWord_eq zero (BitVec.eq_of_toNat_eq opcode) hrd hra hrb, dest⟩
  case h_8 opcode =>
    obtain ⟨hrd, hrb, ra, hra, rfl⟩ := formatA_eq_ok_iff.1 decoded
    exact ⟨packWord_eq zero (BitVec.eq_of_toNat_eq opcode) hrd hra hrb, rfl⟩
  case h_14 => cases decoded
  case h_1 opcode | h_2 opcode | h_7 opcode | h_9 opcode | h_10 opcode | h_11 opcode | h_12 opcode | h_13 opcode =>
    obtain ⟨hrd, hra, hrb, rfl⟩ := formatZ_eq_ok_iff.1 decoded
    exact ⟨packWord_eq zero (BitVec.eq_of_toNat_eq opcode) hrd hra hrb, rfl⟩

/-- Settles O5: each word written out is the word of its command, so O1 says what it decodes to. -/
theorem exampleWordsDecode : Obligations.ExampleWordsDecode :=
  ⟨decodeOfEncode (.mmul .B .A .RR) rfl, decodeOfEncode (.mul .A .B) rfl, decodeOfEncode (.redc .C) rfl,
    decodeOfEncode (.serbe .A) rfl, decodeOfEncode .modexp rfl⟩

/-! ### Which words decode (R95) -/

/-- R91, R96: the register fields of `w` are those that a word of format `f` may have. -/
def Format.Admits (f : Format) (w : Word) : Prop :=
  (if f = .D ∨ f = .DAB then 4 ≤ w.rd.toNat ∧ w.rd.toNat ≤ 6 else w.rd.toNat = 0) ∧
  (if f = .A ∨ f = .AB ∨ f = .DAB then w.ra.toNat ≤ 6 else w.ra.toNat = 0) ∧
  (if f = .AB ∨ f = .DAB then w.rb.toNat ≤ 6 else w.rb.toNat = 0)

theorem field_toNat_eq_zero_iff {k : BitVec 4} : k.toNat = 0 ↔ k = 0 :=
  BitVec.toNat_inj (y := 0)

section
variable {w : Word}

theorem formatZ_ok_iff {i : Instr} : (∃ j, formatZ w i = .ok j) ↔ Format.Admits .Z w := by
  simp [formatZ_eq_ok_iff, Format.Admits, field_toNat_eq_zero_iff]

theorem formatD_ok_iff {f : Reg → Instr} : (∃ j, formatD w f = .ok j) ↔ Format.Admits .D w := by
  rw [Format.Admits, and_rotate]
  simp [formatD_eq_ok_iff, field_toNat_eq_zero_iff, Reg.exists_dest_iff]

theorem formatA_ok_iff {f : Reg → Instr} : (∃ j, formatA w f = .ok j) ↔ Format.Admits .A w := by
  simp [formatA_eq_ok_iff, Format.Admits, field_toNat_eq_zero_iff, Reg.exists_index_iff, and_comm]

theorem formatAB_ok_iff {f : Reg → Reg → Instr} : (∃ j, formatAB w f = .ok j) ↔ Format.Admits .AB w := by
  simp [formatAB_eq_ok_iff, Format.Admits, field_toNat_eq_zero_iff, Reg.exists_index_iff]

theorem formatDAB_ok_iff {f : Reg → Reg → Reg → Instr} : (∃ j, formatDAB w f = .ok j) ↔ Format.Admits .DAB w := by
  simp [formatDAB_eq_ok_iff, Format.Admits, Reg.exists_index_iff, Reg.exists_dest_iff]

end

theorem decode_ok_iff_row {w : Word} (zero : w.zero = 0) :
    (∃ i, decode w = .ok i) ↔ ∃ row ∈ opcodeTable, row.opcode = w.opcode ∧ row.format.Admits w := by
  rw [decode, if_neg (not_not.2 zero)]
  split
  case h_3 opcode => simp [formatAB_ok_iff, opcodeTable, ← BitVec.toNat_inj, opcode]
  case h_4 opcode => simp [formatD_ok_iff, opcodeTable, ← BitVec.toNat_inj, opcode]
  case h_5 opcode | h_6 opcode => simp [formatDAB_ok_iff, opcodeTable, ← BitVec.toNat_inj, opcode]
  case h_8 opcode => simp [formatA_ok_iff, opcodeTable, ← BitVec.toNat_inj, opcode]
  case h_14 =>
    have unassigned : ∀ row ∈ opcodeTable, w.opcode ≠ row.opcode := by
      simp_all [opcodeTable, ← BitVec.toNat_inj]
    exact ⟨nofun, fun ⟨row, mem, opcode, _⟩ => absurd opcode.symm (unassigned row mem)⟩
  case h_1 opcode | h_2 opcode | h_7 opcode | h_9 opcode | h_10 opcode | h_11 opcode | h_12 opcode | h_13 opcode =>
    simp [formatZ_ok_iff, opcodeTable, ← BitVec.toNat_inj, opcode]

/-- Settles O3: a word with a bit of 31:20 set never decodes, and any other decodes when its opcode's row admits it. -/
theorem whichWordsAreCommands : Obligations.WhichWordsAreCommands := by
  intro w
  change _ ↔ w.zero = 0 ∧ ∃ row ∈ opcodeTable, row.opcode = w.opcode ∧ row.format.Admits w
  constructor
  · rintro ⟨i, decoded⟩
    have zero := zero_of_decode decoded
    exact ⟨zero, (decode_ok_iff_row zero).1 ⟨i, decoded⟩⟩
  · rintro ⟨zero, row⟩
    exact (decode_ok_iff_row zero).2 row

/-! ### The opcode table (R94) -/

/-- Every mask keeps bits 7:0, where the pattern holds the row's opcode. -/
theorem opcode_of_match {row : OpRow} (mem : row ∈ opcodeTable) {w : Word} (fits : w &&& row.mask = row.pattern) :
    w.opcode = row.opcode := by
  have table : ∀ row ∈ opcodeTable, row.mask.opcode = BitVec.allOnes 8 ∧ row.pattern.opcode = row.opcode := by decide
  obtain ⟨mask, pattern⟩ := table row mem
  calc w.opcode
    _ = w.opcode &&& row.mask.opcode := by rw [mask, BitVec.and_allOnes]
    _ = (w &&& row.mask).opcode := BitVec.extractLsb'_and.symm
    _ = row.opcode := by rw [fits, pattern]

theorem opcodeTable_opcode_nodup : (opcodeTable.map OpRow.opcode).Nodup := by
  decide

/-- Settles O4: both rows have the word's opcode, and no opcode stands twice in the table. -/
theorem opcodeRowsDisjoint : Obligations.OpcodeRowsDisjoint := by
  intro w r₁ mem₁ r₂ mem₂ fits₁ fits₂
  apply List.inj_on_of_nodup_map opcodeTable_opcode_nodup mem₁ mem₂
  rw [← opcode_of_match mem₁ fits₁, opcode_of_match mem₂ fits₂]

end Sys2Proof
end

section
/-! The limb arithmetic of the multiplier (R121, R125): limbs as the digits of an integer, the exact MAC, and the schoolbook
sequence. -/

namespace Sys2Proof.Machine

/-- Settles O34: `mac_exact`, and the largest result is `(2^w - 1)^2 + 2 * (2^w - 1)`, below `2^w * 2^w`. -/
theorem macNeverOverflows : Obligations.MacNeverOverflows := by
  intro w a b c d ha hb hc hd
  refine ⟨?hi, Nat.mod_lt _ (Nat.two_pow_pos w), mac_exact w a b c d⟩
  case hi =>
    obtain ⟨q, hq⟩ : ∃ q, 2 ^ w = q + 1 := Nat.exists_eq_add_one.2 (Nat.two_pow_pos w)
    have product : a * b ≤ q * q := Nat.mul_le_mul (by omega) (by omega)
    apply Nat.div_lt_of_lt_mul
    rw [hq]
    linarith

theorem ofLimbs_append (w : Nat) (ys : List Nat) : ∀ xs : List Nat,
    ofLimbs w (xs ++ ys) = ofLimbs w xs + 2 ^ (w * xs.length) * ofLimbs w ys
  | [] => by simp [ofLimbs]
  | x :: xs => by
    rw [List.cons_append, ofLimbs, ofLimbs, ofLimbs_append w ys xs, List.length_cons, Nat.mul_succ, Nat.pow_add]
    ring

@[simp] theorem length_limbs (w n v : Nat) : (limbs w n v).length = n := by simp [limbs]

/-- R22: the list of the lowest `n` limbs of `v` holds what the digits of `sum_limbs` sum to. -/
theorem ofLimbs_limbs (w v n : Nat) : ofLimbs w (limbs w n v) = v % 2 ^ (w * n) := by
  rw [← sum_limbs]
  induction n with
  | zero => rfl
  | succ n ih =>
    have last : limbs w (n + 1) v = limbs w n v ++ [limb w v n] := by simp [limbs, List.range_succ]
    rw [last, ofLimbs_append, ih, length_limbs, Finset.sum_range_succ, Nat.mul_comm (limb w v n)]
    simp [ofLimbs]

theorem ofLimbs_replicate_zero (w : Nat) : ∀ n, ofLimbs w (List.replicate n 0) = 0
  | 0 => rfl
  | n + 1 => by simp [List.replicate_succ, ofLimbs, ofLimbs_replicate_zero w n]

theorem ofLimbs_limbs_of_lt {p : Params} {v : Nat} (hv : v < p.radix) :
    ofLimbs p.limbBits (limbs p.limbBits p.numLimbs v) = v := by
  rw [ofLimbs_limbs]
  exact Nat.mod_eq_of_lt hv

/-- R125: the schoolbook sequence adds the product of its factors to the window it starts from. -/
theorem ofLimbs_mulLimbs (w : Nat) (as : List Nat) : ∀ bs ts : List Nat, as.length = ts.length →
    ofLimbs w (mulLimbs w as bs ts) = ofLimbs w as * ofLimbs w bs + ofLimbs w ts
  | [], ts, _ => by simp [mulLimbs, ofLimbs]
  | b :: bs, ts, window => by
    obtain ⟨value, length⟩ := macRow_value w b as ts 0 window
    simp only [mulLimbs]
    split
    case h_1 empty =>
      obtain rfl : as = [] := List.eq_nil_of_length_eq_zero (by rw [← length, empty]; rfl)
      obtain rfl : ts = [] := List.eq_nil_of_length_eq_zero window.symm
      simp [ofLimbs]
    case h_2 t0 rest row =>
      rw [row, List.length_cons] at length
      have next : as.length = (rest ++ [(macRow w b as ts 0).2]).length := by simp [length]
      rw [row, ← length, Nat.mul_succ, Nat.pow_add] at value
      simp only [ofLimbs, ofLimbs_mulLimbs w as bs _ next, ofLimbs_append] at value ⊢
      linear_combination value

end Sys2Proof.Machine
end

section
/-! The reduction context and the Montgomery product of a valid modulus (R123, R129, R132, R134). A value below N is the
product as soon as it is congruent to it after multiplication by R, since R is prime to N. -/

namespace Sys2Proof.Machine

theorem modBits_le_width {p : Params} (hp : p.Legal) : p.modBits ≤ p.limbBits * p.numLimbs := by
  obtain ⟨-, ⟨hw, -⟩, -⟩ := hp
  have division := Nat.div_add_mod (p.modBits + p.limbBits - 1) p.limbBits
  have remainder := Nat.mod_lt (p.modBits + p.limbBits - 1) hw
  rw [Params.numLimbs, ceilDiv]
  omega

theorem numLimbs_pos {p : Params} (hp : p.Legal) : 0 < p.numLimbs := by
  have radix := one_lt_radix hp
  by_contra none
  rw [Params.radix, Nat.eq_zero_of_not_pos none] at radix
  exact absurd radix (Nat.lt_irrefl 1)

section
variable {p : Params} {n : Nat} (hp : p.Legal) (hn : ValidModulus p n)
include hp hn

theorem ValidModulus.lt_radix : n < p.radix :=
  hn.high.trans_le (Nat.pow_le_pow_right (by omega) (modBits_le_width hp))

theorem ValidModulus.isNPrime0 : IsNPrime0 p n (nPrime0 p n) := by
  obtain ⟨-, ⟨hw, -⟩, -⟩ := hp
  exact nPrime0_spec hw hn.odd

theorem ValidModulus.one_lt : 1 < n := by
  obtain ⟨⟨hm, -⟩, -⟩ := hp
  exact (Nat.one_lt_two_pow (by omega)).trans_le hn.low

/-- R123: Rinv exists, since the radix is prime to the modulus, and is unique. -/
theorem existsUnique_isRInv : ∃! x, IsRInv p n x := by
  obtain ⟨x, bound, inv⟩ :=
    Nat.exists_mul_mod_eq_one_of_coprime (radix_coprime (p := p) hn.odd) (hn.one_lt hp)
  refine ⟨x, ⟨bound, inv⟩, fun y hy => eq_of_radix_mul (p := p) hn.odd hy.bound bound ?_⟩
  rw [Nat.mul_comm y, Nat.mul_comm x, hy.inv, inv]

variable {np0 : Nat} (hnp : IsNPrime0 p n np0)
include hnp

/-- R129: the product of two values below N is below `N * R`, where the reducer is exact. -/
theorem montMul_spec {a b : Nat} (ha : a < n) (hb : b < n) :
    montMul p np0 n a b < n ∧ montMul p np0 n a b * p.radix ≡ a * b [MOD n] :=
  redc_spec hnp.minus (Nat.mul_lt_mul'' ha (hb.trans (hn.lt_radix hp)))

theorem montMul_eq {a b z : Nat} (ha : a < n) (hb : b < n) (hz : z < n) (h : z * p.radix ≡ a * b [MOD n]) :
    montMul p np0 n a b = z := by
  obtain ⟨below, congruent⟩ := montMul_spec hp hn hnp ha hb
  exact eq_of_radix_mul hn.odd below hz (congruent.trans h.symm)

end

/-- Settles O35: `nPrime0` is an NPrime0, and the only one; `nPrime0` is a function of limb 0; `existsUnique_isRInv`. -/
theorem reductionContextExists : Obligations.ReductionContextExists := by
  intro p n hp hn
  have spec := hn.isNPrime0 hp
  refine ⟨fun x => ⟨fun hx => isNPrime0_unique hn.odd hx spec, fun hx => hx ▸ spec⟩, fun n' hlimb => ?limb0, rfl,
    existsUnique_isRInv hp hn⟩
  case limb0 => rw [nPrime0, nPrime0, hlimb]

/-- Settles O36: each right side is below N and, by `montMul_eq`, has the product's class modulo N. -/
theorem montgomeryFormLaws : Obligations.MontgomeryFormLaws := by
  intro p n np0 x y hp hn hnp hx hy
  have product {a b z : Nat} := montMul_eq hp hn hnp (a := a) (b := b) (z := z)
  have below (v : Nat) : v % n < n := Nat.mod_lt v (Nat.zero_lt_of_lt hx)
  refine ⟨product hx (below _) (below _) ?enter, product (below _) (hn.one_lt hp) hx ?leave,
    product (below _) (below _) (below _) ?inForm, product (below _) hy (below _) ?mixed⟩
  case enter =>
    calc x * p.radix % n * p.radix
      _ ≡ x * p.radix * p.radix [MOD n] := (Nat.mod_modEq _ n).mul_right _
      _ = x * p.radix ^ 2 := by ring
      _ ≡ x * (p.radix ^ 2 % n) [MOD n] := (Nat.mod_modEq _ n).symm.mul_left x
  case leave =>
    rw [Nat.mul_one]
    exact (Nat.mod_modEq _ n).symm
  case inForm =>
    calc x * y % n * p.radix % n * p.radix
      _ ≡ x * y * p.radix * p.radix [MOD n] :=
        ((Nat.mod_modEq _ n).trans ((Nat.mod_modEq _ n).mul_right _)).mul_right _
      _ = x * p.radix * (y * p.radix) := by ring
      _ ≡ x * p.radix % n * (y * p.radix % n) [MOD n] := ((Nat.mod_modEq _ n).mul (Nat.mod_modEq _ n)).symm
  case mixed =>
    calc x * y % n * p.radix
      _ ≡ x * y * p.radix [MOD n] := (Nat.mod_modEq _ n).mul_right _
      _ = x * p.radix * y := by ring
      _ ≡ x * p.radix % n * y [MOD n] := ((Nat.mod_modEq _ n).mul_right y).symm

/-- Settles O37: the inner product times R is `a * b`, so the outer one, by RR, is `a * b` modulo N. -/
theorem modMulByTwoMontgomeryProducts : Obligations.ModMulByTwoMontgomeryProducts := by
  intro p n np0 a b hp hn hnp ha hb
  have below (v : Nat) : v % n < n := Nat.mod_lt v (Nat.zero_lt_of_lt ha)
  obtain ⟨innerBelow, inner⟩ := montMul_spec hp hn hnp ha hb
  refine ⟨rfl, below _, montMul_eq hp hn hnp innerBelow (below _) (below _) ?congruent⟩
  case congruent =>
    calc a * b % n * p.radix
      _ ≡ a * b * p.radix [MOD n] := (Nat.mod_modEq _ n).mul_right _
      _ ≡ montMul p np0 n a b * p.radix * p.radix [MOD n] := (inner.mul_right _).symm
      _ = montMul p np0 n a b * p.radix ^ 2 := by ring
      _ ≡ montMul p np0 n a b * montRR p n [MOD n] := (Nat.mod_modEq _ n).symm.mul_left _

end Sys2Proof.Machine
end

section
/-! The word-serial Montgomery product (R130). One iteration turns the value `V` of the working limbs into
`(V + a*b + m*N) / 2^w`, exactly; so after all limbs the value times R is the product plus a multiple of N below `R*N`, and
one subtraction leaves the Montgomery product (R127). -/

namespace Sys2Proof.Machine

theorem ofLimbs_headD_tail (w : Nat) (xs : List Nat) : ofLimbs w xs = xs.headD 0 + 2 ^ w * ofLimbs w xs.tail := by
  cases xs <;> simp [ofLimbs]

theorem ofLimbs_mod_of_headD_lt {w : Nat} {xs : List Nat} (h : xs.headD 0 < 2 ^ w) : ofLimbs w xs % 2 ^ w = xs.headD 0 := by
  rw [ofLimbs_headD_tail, Nat.add_mul_mod_self_left, Nat.mod_eq_of_lt h]

/-- What a pass of MACs leaves in its first place is a limb (R121). -/
theorem macRow_headD_lt (w b : Nat) (as ts : List Nat) (c : Nat) : (macRow w b as ts c).1.headD 0 < 2 ^ w := by
  unfold macRow
  split
  · exact Nat.mod_lt _ (Nat.two_pow_pos w)
  · exact Nat.two_pow_pos w

/-- The integer that the working limbs `t[0 .. k]` of R130 hold. -/
def MontWork.value (w k : Nat) (t : MontWork) : Nat := ofLimbs w t.low + 2 ^ (w * k) * t.top

theorem MontWork.value_replicate_zero (w k n : Nat) : MontWork.value w k ⟨List.replicate n 0, 0⟩ = 0 := by
  simp [MontWork.value, ofLimbs_replicate_zero]

section
variable {w np0 k : Nat} {as ns : List Nat} (hinv : np0 * ofLimbs w ns % 2 ^ w = 2 ^ w - 1)
  (ha : as.length = k + 1) (hn : ns.length = k + 1)
include hinv hn

/-- R130: the reduce pass adds the multiple of N that clears the first limb, which is then dropped. -/
theorem reducePass_spec {ts : List Nat} (ht : ts.length = k + 1) (head : ts.headD 0 < 2 ^ w) {m : Nat}
    (hm : m = ts.headD 0 * np0 % 2 ^ w) :
    (macRow w m ns ts 0).1.tail.length = k ∧
    ofLimbs w (macRow w m ns ts 0).1.tail * 2 ^ w + (macRow w m ns ts 0).2 * (2 ^ (w * k) * 2 ^ w) =
      ofLimbs w ts + m * ofLimbs w ns := by
  obtain ⟨value, length⟩ := macRow_value w m ns ts 0 (hn.trans ht.symm)
  have first := ofLimbs_mod_of_headD_lt (macRow_headD_lt w m ns ts 0)
  have parts := ofLimbs_headD_tail w (macRow w m ns ts 0).1
  generalize macRow w m ns ts 0 = pass at *
  rw [hn, Nat.mul_succ, Nat.pow_add] at value
  have total : ofLimbs w ts + m * ofLimbs w ns = ofLimbs w pass.1 + 2 ^ w * (2 ^ (w * k) * pass.2) := by
    linear_combination -value
  have cleared : pass.1.headD 0 = 0 := by
    have divides := redc_round_exact hinv (ofLimbs w ts)
    rwa [ofLimbs_mod_of_headD_lt head, ← hm, total, Nat.add_mul_mod_self_left, first] at divides
  rw [cleared, Nat.zero_add] at parts
  exact ⟨by rw [List.length_tail, length, hn, Nat.add_sub_cancel], by linear_combination -total - parts⟩

include ha

/-- R130: an iteration adds `a*b` and a multiple of N, and divides exactly by the limb radix. -/
theorem montIteration_spec (t : MontWork) (b : Nat) (ht : t.low.length = k + 1) :
    (montIteration w np0 as ns t b).low.length = k + 1 ∧
    ∃ m < 2 ^ w, (montIteration w np0 as ns t b).value w (k + 1) * 2 ^ w =
      t.value w (k + 1) + ofLimbs w as * b + m * ofLimbs w ns := by
  simp only [montIteration, MontWork.value]
  obtain ⟨mulValue, mulLength⟩ := macRow_value w b as t.low 0 (ha.trans ht.symm)
  have mulHead := macRow_headD_lt w b as t.low 0
  generalize macRow w b as t.low 0 = mulPass at *
  obtain ⟨redLength, redValue⟩ := reducePass_spec hinv hn (mulLength.trans ha) mulHead rfl
  generalize macRow w (mulPass.1.headD 0 * np0 % 2 ^ w) ns mulPass.1 0 = redPass at *
  refine ⟨by simp [redLength], _, Nat.mod_lt (mulPass.1.headD 0 * np0) (Nat.two_pow_pos w), ?_⟩
  have low := Nat.div_add_mod (t.top + mulPass.2) (2 ^ w)
  have high := Nat.div_add_mod ((t.top + mulPass.2) % 2 ^ w + redPass.2) (2 ^ w)
  rw [ha, Nat.mul_succ, Nat.pow_add] at mulValue
  rw [ofLimbs_append, redLength, Nat.mul_succ, Nat.pow_add]
  simp only [ofLimbs]
  linear_combination redValue + mulValue + 2 ^ (w * k) * 2 ^ w * (high + low)

/-- R130: each further limb of the second factor moves the accumulated value one limb down, exactly. -/
theorem foldl_montIteration_spec : ∀ (bs : List Nat) (t : MontWork), t.low.length = k + 1 →
    ∃ M < 2 ^ (w * bs.length), (bs.foldl (montIteration w np0 as ns) t).value w (k + 1) * 2 ^ (w * bs.length) =
      t.value w (k + 1) + ofLimbs w as * ofLimbs w bs + M * ofLimbs w ns
  | [], t, _ => ⟨0, by simp, by simp [ofLimbs]⟩
  | b :: bs, t, ht => by
    obtain ⟨length, m, hm, once⟩ := montIteration_spec hinv ha hn t b ht
    obtain ⟨M, hM, rest⟩ := foldl_montIteration_spec bs _ length
    have power : 2 ^ (w * (b :: bs).length) = 2 ^ (w * bs.length) * 2 ^ w := by
      rw [List.length_cons, Nat.mul_succ, Nat.pow_add]
    rw [power]
    refine ⟨m + M * 2 ^ w, by nlinarith, ?_⟩
    rw [List.foldl_cons, ofLimbs]
    linear_combination 2 ^ w * rest + once

end

/-- R126 (c), R127: the one subtraction leaves the value below `n` when `u * R` exceeds a `t` below `n * R` by a multiple of
`n` below `n * R`. -/
theorem subtractOnce_spec {n r t u M : Nat} (ht : t < n * r) (hM : M < r) (h : u * r = t + M * n) :
    subtractOnce n u < n ∧ subtractOnce n u * r ≡ t [MOD n] := by
  have small : u < 2 * n := Nat.lt_of_mul_lt_mul_right (a := r) (by nlinarith)
  have congruent : u * r ≡ t [MOD n] := h ▸ Nat.add_mul_mod_self_right t M n
  rw [subtractOnce]
  split
  case isTrue subtract =>
    obtain ⟨d, rfl⟩ := Nat.exists_eq_add_of_le subtract
    rw [Nat.add_sub_cancel_left]
    exact ⟨by omega, (Nat.add_modEq_left.symm.mul_right r).trans congruent⟩
  case isFalse keep => exact ⟨by omega, congruent⟩

/-- Settles O38: the passes leave the product of R130 before its subtraction (`foldl_montIteration_spec`), and `montMul_eq`
recognises the Montgomery product in what the subtraction leaves. -/
theorem wordSerialSequenceIsMontgomeryProduct : Obligations.WordSerialSequenceIsMontgomeryProduct := by
  intro p n np0 a b hp hn hnp ha hb
  have nBelow := hn.lt_radix hp
  have bBelow := hb.trans nBelow
  have nLimbs := ofLimbs_limbs_of_lt nBelow
  have aLimbs := ofLimbs_limbs_of_lt (ha.trans nBelow)
  have bLimbs := ofLimbs_limbs_of_lt bBelow
  obtain ⟨k, hk⟩ := Nat.exists_eq_add_one.2 (numLimbs_pos hp)
  have length (v : Nat) : (limbs p.limbBits p.numLimbs v).length = k + 1 := by rw [length_limbs, hk]
  obtain ⟨M, hM, passes⟩ := foldl_montIteration_spec (nLimbs.symm ▸ hnp.minus) (length a) (length n)
    (limbs p.limbBits p.numLimbs b) ⟨List.replicate p.numLimbs 0, 0⟩ (by simp [hk])
  rw [length_limbs] at hM passes
  rw [aLimbs, bLimbs, nLimbs, ← hk, MontWork.value_replicate_zero, Nat.zero_add] at passes
  obtain ⟨below, congruent⟩ := subtractOnce_spec (Nat.mul_lt_mul'' ha bBelow) hM passes
  exact (montMul_eq hp hn hnp ha hb below congruent).symm

end Sys2Proof.Machine
end

section
/-! The commands of the Montgomery multiplier (R124, R125, R128, R131, R133): their words, their guards, and what they
write. -/

namespace Sys2Proof.Machine

/-! ### The number of a word (R90) -/

theorem toNat_append_eq_add {m n : Nat} (x : BitVec m) (y : BitVec n) : (x ++ y).toNat = x.toNat * 2 ^ n + y.toNat := by
  rw [BitVec.toNat_append, ← Nat.shiftLeft_add_eq_or_of_lt y.isLt, Nat.shiftLeft_eq]

theorem toNat_packWord (op : Byte) (rd ra rb : BitVec 4) :
    (packWord op rd ra rb).toNat = op.toNat + rd.toNat * 2 ^ 8 + ra.toNat * 2 ^ 12 + rb.toNat * 2 ^ 16 := by
  simp only [packWord, toNat_append_eq_add]
  change (((0 * 2 ^ 4 + rb.toNat) * 2 ^ 4 + ra.toNat) * 2 ^ 4 + rd.toNat) * 2 ^ 8 + op.toNat = _
  ring

/-! ### Their guards (R122, R124, R128) -/

section
variable {s : State}

theorem State.modulusFault_of_valid (h : ValidModulus s.params s.regN) : s.modulusFault = none :=
  if_pos (modulusOk_iff.2 h)

theorem State.modulusFault_of_not_valid (h : ¬ ValidModulus s.params s.regN) : s.modulusFault = some .modulusParam :=
  if_neg (mt modulusOk_iff.1 h)

theorem State.reduceFault_of_no_modulus (hv : s.status.modValid = false) : s.reduceFault = some .modulusNotSet := by
  simp [State.reduceFault, hv]

theorem State.reduceFault_of_modulus (hv : s.status.modValid = true) :
    s.reduceFault = if s.regN * s.params.radix ≤ s.regT then some .operandRange else none := by
  simp [State.reduceFault, hv]

theorem State.productFault_of_no_modulus (ra rb : Reg) (hv : s.status.modValid = false) :
    s.productFault ra rb = some .modulusNotSet := by
  simp [State.productFault, hv]

theorem State.below_iff {r : Reg} : s.below r = true ↔ s.bn r < s.regN :=
  decide_eq_true_iff

theorem State.productFault_of_range {ra rb : Reg} (hv : s.status.modValid = true)
    (h : s.regN ≤ s.bn ra ∨ s.regN ≤ s.bn rb) : s.productFault ra rb = some .operandRange := by
  have notBelow : ¬ (s.below ra && s.below rb) = true := by
    rw [Bool.and_eq_true, State.below_iff, State.below_iff]
    omega
  rw [State.productFault, hv, Bool.eq_false_of_not_eq_true notBelow]
  rfl

theorem State.productFault_of_below {ra rb : Reg} (hv : s.status.modValid = true) (ha : s.bn ra < s.regN)
    (hb : s.bn rb < s.regN) : s.productFault ra rb = none := by
  rw [State.productFault, hv, State.below_iff.2 ha, State.below_iff.2 hb]
  rfl

theorem destinationFault_of_dest {rd : Reg} (dest : rd.isDest = true) (c : Option Cause) : destinationFault rd c = c :=
  if_pos dest

/-! ### What MMUL and MODMUL share (R131, R133) -/

variable {rd ra rb : Reg} (dest : rd.isDest = true) (f : State → State)
include dest

theorem guarded_product_of_no_modulus (hv : s.status.modValid = false) :
    guarded (destinationFault rd (s.productFault ra rb)) f s = .next (raiseFault .modulusNotSet s) := by
  rw [destinationFault_of_dest dest, State.productFault_of_no_modulus ra rb hv, guarded_some]

theorem guarded_product_of_range (hv : s.status.modValid = true) (h : s.regN ≤ s.bn ra ∨ s.regN ≤ s.bn rb) :
    guarded (destinationFault rd (s.productFault ra rb)) f s = .next (raiseFault .operandRange s) := by
  rw [destinationFault_of_dest dest, State.productFault_of_range hv h, guarded_some]

theorem guarded_product_of_below (hv : s.status.modValid = true) (ha : s.bn ra < s.regN) (hb : s.bn rb < s.regN) :
    guarded (destinationFault rd (s.productFault ra rb)) f s = .next (f s) := by
  rw [destinationFault_of_dest dest, State.productFault_of_below hv ha hb, guarded_none]

end

/-- R27: the value that T takes at the next product (log entry 5). -/
def State.nextFreeT (s : State) : Nat := Config.freeT s.freeCount % s.params.radix ^ 2

theorem State.nextFreeT_lt (s : State) : s.nextFreeT < s.params.radix ^ 2 :=
  Nat.mod_lt _ (Nat.pow_pos (Nat.two_pow_pos _))

theorem complete_freeT_setBn (s : State) (rd : Reg) (v : Nat) :
    complete (freeT (s.setBn rd v)) = s.productEffect rd v s.nextFreeT := by
  cases rd <;> rfl

theorem complete_setBn (s : State) (rd : Reg) (v : Nat) :
    complete (s.setBn rd v) = { s.setBn rd v with status := { s.status with busy := false, done := true } } := by
  rw [complete, setBn_status, Status.completed]

/-! ### The commands -/

/-- What MMUL does when its guard lets it: the destination takes the product, T the next free value (R27). -/
theorem exec_mmul (s : State) (rd ra rb : Reg) :
    exec (.mmul rd ra rb) s = guarded (destinationFault rd (s.productFault ra rb))
      (fun s => s.productEffect rd (montMul s.params s.np0 s.regN (s.bn ra) (s.bn rb)) s.nextFreeT) s := by
  simp only [exec, execMmul, complete_freeT_setBn]

theorem exec_modmul (s : State) (rd ra rb : Reg) :
    exec (.modmul rd ra rb) s = guarded (destinationFault rd (s.productFault ra rb))
      (fun s => s.productEffect rd (s.bn ra * s.bn rb % s.regN) s.nextFreeT) s := by
  simp only [exec, execModmul, modMul, complete_freeT_setBn]

theorem exec_redc {rd : Reg} (dest : rd.isDest = true) (s : State) :
    exec (.redc rd) s =
      guarded s.reduceFault (fun s => complete (s.setBn rd (redc s.params s.np0 s.regN s.regT))) s := by
  rw [exec, execRedc, destinationFault_of_dest dest]

theorem exec_modset_of_valid {s : State} (h : ValidModulus s.params s.regN) :
    exec .modset s = .next (complete s.withContext) := by
  rw [exec, execModset, State.modulusFault_of_valid h, guarded_none]

/-- Settles O14: `nPrime0` is NPrime0; a sound state's modulus is valid, and MODSET writes the context it has already. -/
theorem modsetMeaning : Obligations.ModsetMeaning := by
  refine ⟨rfl, fun s hp hn => ⟨_, hn.isNPrime0 hp, exec_modset_of_valid hn⟩, fun s hn => ?invalid,
    fun s h hv => ?repeated⟩
  case invalid => rw [exec, execModset, State.modulusFault_of_not_valid hn, guarded_some]
  case repeated =>
    rw [exec_modset_of_valid (h.modulus hv), h.withContext_eq_self hv]
    rfl

/-- Settles O15: the bound is that of the registers, and the sequence starts from an empty window. -/
theorem mulMeaning : Obligations.MulMeaning := by
  refine ⟨fun ra rb => ?word, fun s ra rb => rfl, fun s ra rb h => h.mul_lt_radix_sq ra rb, fun p a b ha hb => ?schoolbook⟩
  case word => rw [encode, toNat_packWord]; rfl
  case schoolbook =>
    rw [ofLimbs_mulLimbs _ _ _ _ (by simp), ofLimbs_limbs_of_lt ha, ofLimbs_limbs_of_lt hb, ofLimbs_replicate_zero,
      Nat.add_zero]

/-- Settles O16: `redc_spec` in a sound state, where NP0 is NPrime0 of the modulus, and `eq_mul_rInv`. -/
theorem redcMeaning : Obligations.RedcMeaning := by
  refine ⟨fun rd => ?word, fun s rd dest hv => ?noModulus, fun s rd dest hv ht => ?range, fun s rd h dest hv ht => ?reduced⟩
  case word => rw [encode, toNat_packWord]; rfl
  case noModulus => rw [exec_redc dest, State.reduceFault_of_no_modulus hv, guarded_some]
  case range => rw [exec_redc dest, State.reduceFault_of_modulus hv, if_pos ht, guarded_some]
  case reduced =>
    obtain ⟨-, np0⟩ := h.context hv
    obtain ⟨below, congruent⟩ := redc_spec np0.minus ht
    refine ⟨_, below, congruent, fun ri hri => eq_mul_rInv (h.modulus hv).odd below congruent hri, ?_⟩
    rw [exec_redc dest, State.reduceFault_of_modulus hv, if_neg ht.not_ge, guarded_none, complete_setBn]

/-- Settles O17: `montMul_spec` in a sound state, and `eq_mul_rInv`. -/
theorem mmulMeaning : Obligations.MmulMeaning := by
  refine ⟨fun rd ra rb => ?word, fun s rd ra rb dest hv => ?noModulus, fun s rd ra rb dest hv range => ?range,
    fun s rd ra rb h dest hv ha hb => ?product⟩
  case word => rw [encode, toNat_packWord]; rfl
  case noModulus => rw [exec_mmul, guarded_product_of_no_modulus dest _ hv]
  case range => rw [exec_mmul, guarded_product_of_range dest _ hv range]
  case product =>
    obtain ⟨-, np0⟩ := h.context hv
    obtain ⟨below, congruent⟩ := montMul_spec h.legal (h.modulus hv) np0 ha hb
    refine ⟨_, _, below, congruent, fun ri hri => eq_mul_rInv (h.modulus hv).odd below congruent hri, s.nextFreeT_lt, ?_⟩
    rw [exec_mmul, guarded_product_of_below dest _ hv ha hb]

/-- Settles O18: the guards are those of MMUL, the value is the remainder itself. -/
theorem modmulMeaning : Obligations.ModmulMeaning := by
  refine ⟨fun rd ra rb => ?word, fun s rd ra rb dest hv => ?noModulus, fun s rd ra rb dest hv range => ?range,
    fun s rd ra rb dest hv ha hb => ⟨_, s.nextFreeT_lt, ?product⟩⟩
  case word => rw [encode, toNat_packWord]; rfl
  case noModulus => rw [exec_modmul, guarded_product_of_no_modulus dest _ hv]
  case range => rw [exec_modmul, guarded_product_of_range dest _ hv range]
  case product => rw [exec_modmul, guarded_product_of_below dest _ hv ha hb]

end Sys2Proof.Machine
end

section
/-! What a verification depends on (R120, R28): the guard, the power, its bytes and the verdict are functions of MOD_BITS, N,
S, EXP, MHASH and MOD_VALID. -/

namespace Sys2Proof.Machine

/-- A function that reads MOD_BITS alone of the parameters is the same on two blocks with the same MOD_BITS. -/
theorem congr_of_modBits {α : Type} {p p' : Params} (f : Params → α)
    (reads : ∀ modBits w m w' m', f ⟨modBits, w, m⟩ = f ⟨modBits, w', m'⟩) (h : p.modBits = p'.modBits) : f p = f p' := by
  obtain ⟨modBits, w, m⟩ := p
  obtain ⟨modBits', w', m'⟩ := p'
  cases h
  exact reads modBits w m w' m'

section
variable {p p' : Params} (h : p.modBits = p'.modBits)
include h

theorem serBE_congr (v : Nat) : serBE p v = serBE p' v :=
  congr_of_modBits (serBE · v) (fun _ _ _ _ _ => rfl) h

theorem pssCheck_congr (hash : HashPort) (mHash em : List Byte) : pssCheck hash p mHash em = pssCheck hash p' mHash em :=
  congr_of_modBits (pssCheck hash · mHash em) (fun _ _ _ _ _ => rfl) h

theorem pkcsCheck_congr (mHash em : List Byte) : pkcsCheck p mHash em = pkcsCheck p' mHash em :=
  congr_of_modBits (pkcsCheck · mHash em) (fun _ _ _ _ _ => rfl) h

end

/-- The two states agree on what a verification depends on. -/
structure SameVerificationInputs (s s' : State) : Prop where
  modBits  : s.params.modBits = s'.params.modBits
  regN     : s.regN = s'.regN
  regS     : s.regS = s'.regS
  exp      : s.exp = s'.exp
  mhash    : s.mhash = s'.mhash
  modValid : s.status.modValid = s'.status.modValid

/-- The two states agree on what a verification leaves, or on why it faulted. -/
def SameVerification (t t' : State) : Prop :=
  t.status.fault = t'.status.fault ∧
  (t.status.fault = false → t.regA = t'.regA ∧ t.em = t'.em ∧ t.verified = t'.verified) ∧
  (t.status.fault = true → t.faultCode.cause = t'.faultCode.cause)

theorem sameVerification_raiseFault (c : Cause) (s s' : State) : SameVerification (raiseFault c s) (raiseFault c s') :=
  ⟨rfl, nofun, fun _ => rfl⟩

/-- Two states that are to take the same verdict, and agree on A and EM, agree when they have it. -/
theorem sameVerification_finishCheck {v v' : Except Cause Bool} {u u' : State} (verdict : v = v')
    (fault : u.status.fault = false) (fault' : u'.status.fault = false) (regA : u.regA = u'.regA) (em : u.em = u'.em) :
    SameVerification (finishCheck v u) (finishCheck v' u') := by
  subst verdict
  cases v with
  | ok b => exact ⟨fault.trans fault'.symm, fun _ => ⟨regA, em, rfl⟩, fun h => by cases fault.symm.trans h⟩
  | error c => exact sameVerification_raiseFault c u u'

/-- R251, R252: the power is in A and its bytes are in EM. -/
def State.powered (s : State) : State := serialize .A (exponentiate s)

/-- What a verification gives RESULT once A has been serialised (R251, R252): the answer of its check on the buffers. -/
def verificationCheck (i : Instr) (u : State) : Except Cause Bool :=
  if i = .verifypss then pssCheck sha256 u.params u.mhashBytes u.emBytes
  else .ok (pkcsCheck u.params u.mhashBytes u.emBytes)

/-- R251, R252: the two verifications differ in their check alone. -/
theorem exec_verification {i : Instr} (hi : i = .verifypss ∨ i = .verifypkcs) (s : State) :
    exec i s = guarded s.exponentFault (fun s => finishCheck (verificationCheck i s.powered) s.powered) s := by
  rcases hi with rfl | rfl <;> rfl

section
variable {s s' : State} (h : SameVerificationInputs s s')
include h

theorem SameVerificationInputs.exponentFault : s.exponentFault = s'.exponentFault := by
  have below : s.below .S = s'.below .S := by
    change decide (s.regS < s.regN) = decide (s'.regS < s'.regN)
    rw [h.regS, h.regN]
  rw [State.exponentFault, State.exponentFault, h.exp, h.modValid, below]

theorem SameVerificationInputs.power : modExp s.regS s.exp s.regN = modExp s'.regS s'.exp s'.regN := by
  rw [h.regS, h.exp, h.regN]

theorem SameVerificationInputs.bytes :
    serBE s.params (modExp s.regS s.exp s.regN) = serBE s'.params (modExp s'.regS s'.exp s'.regN) := by
  rw [h.power, serBE_congr h.modBits]

theorem SameVerificationInputs.check (i : Instr) :
    verificationCheck i s.powered = verificationCheck i s'.powered := by
  have em : s.powered.emBytes = s'.powered.emBytes := by
    rw [State.powered, State.powered, serialize_emBytes, serialize_emBytes]
    exact h.bytes
  have mhash : s.powered.mhashBytes = s'.powered.mhashBytes := congrArg (Memory.bytes · hLen) h.mhash
  have modBits : s.powered.params.modBits = s'.powered.params.modBits := h.modBits
  rw [verificationCheck, verificationCheck, em, mhash, pssCheck_congr modBits, pkcsCheck_congr modBits]

end

/-- Settles O50: the guards agree, and past them the powers, their bytes and the answers of the check. -/
theorem verdictDependsOnItsInputsOnly : Obligations.VerdictDependsOnItsInputsOnly := by
  intro i s s' hi modBits regN regS exp mhash modValid fault fault'
  have same : SameVerificationInputs s s' := ⟨modBits, regN, regS, exp, mhash, modValid⟩
  rw [exec_verification hi, exec_verification hi, ← same.exponentFault]
  cases s.exponentFault with
  | some c => exact ⟨_, _, rfl, rfl, sameVerification_raiseFault c s s'⟩
  | none =>
    exact ⟨_, _, rfl, rfl,
      sameVerification_finishCheck (same.check i) fault fault' same.power (congrArg Memory.ofBytes same.bytes)⟩

end Sys2Proof.Machine
end

section
/-! The exponentiation engine (R160 to R163). Both ladders run over a representation of the residues modulo N: the plain
one over `x mod N`, the one of R162 over `x * R mod N`. -/

namespace Sys2Proof.Machine

/-! ### The ladder over any product (R160, R162) -/

/-- What both ladders do with the square `t`: fifteen further squarings for 65537, then one product with the signature. -/
def ladder (mul : Nat → Nat → Nat) (sig t : Nat) (e : Word) : Nat :=
  if e = 3 then mul t sig else mul (squarings mul 15 t) sig

theorem modExp_eq_ladder (sig : Nat) (e : Word) (n : Nat) :
    modExp sig e n = ladder (modMul n) sig (modMul n sig sig) e := rfl

theorem modExpMont_eq_ladder (p : Params) (np0 rr sig : Nat) (e : Word) (n : Nat) :
    modExpMont p np0 rr sig e n =
      ladder (montMul p np0 n) sig (montMul p np0 n (montMul p np0 n sig rr) (montMul p np0 n sig rr)) e := rfl

section
variable {mul : Nat → Nat → Nat} {f : Nat → Nat} (hmul : ∀ x y, mul (f x) (f y) = f (x * y))
include hmul

theorem squarings_represents : ∀ k x, squarings mul k (f x) = f (x ^ 2 ^ k)
  | 0, x => by simp [squarings]
  | k + 1, x => by
    rw [squarings, hmul, squarings_represents k, ← Nat.pow_two, ← Nat.pow_mul, ← Nat.pow_succ']

/-- R160: when `mul` multiplies what `f` represents, and its product with the signature itself is the plain residue, the
ladder computes the power for both exponents, which are `2 + 1` and `2 * 2^15 + 1`. -/
theorem ladder_eq_pow_mod {sig n : Nat} (hout : ∀ x, mul (f x) sig = x * sig % n) {e : Word}
    (he : e = 3 ∨ e = 65537) : ladder mul sig (f (sig ^ 2)) e = sig ^ e.toNat % n := by
  rcases he with rfl | rfl
  · rw [ladder, if_pos rfl, hout, ← Nat.pow_succ]
    rfl
  · have exponent : (65537 : Word).toNat = 2 * 2 ^ 15 + 1 := rfl
    rw [ladder, if_neg (by decide), squarings_represents hmul, hout, ← Nat.pow_mul, ← Nat.pow_succ, exponent]

end

/-! ### The plain ladder (R160) -/

theorem modExp_eq_pow_mod {e : Word} (he : e = 3 ∨ e = 65537) (sig n : Nat) :
    modExp sig e n = sig ^ e.toNat % n := by
  rw [modExp_eq_ladder, modMul, ← Nat.pow_two]
  exact ladder_eq_pow_mod (mul := modMul n) (f := (· % n)) (fun x y => (Nat.mul_mod x y n).symm)
    (fun x => Nat.mod_mul_mod x sig n) he

/-! ### The ladder in Montgomery products (R162) -/

/-- R134: the Montgomery form of the residue of `x`. -/
def montForm (p : Params) (n x : Nat) : Nat := x * p.radix % n

theorem montForm_mod (p : Params) (n x : Nat) : montForm p n (x % n) = montForm p n x :=
  Nat.mod_mul_mod x p.radix n

section
variable {p : Params} {n np0 : Nat} (hp : p.Legal) (hn : ValidModulus p n) (hnp : IsNPrime0 p n np0)
include hp hn hnp

/-- R134: the Montgomery product multiplies what the forms represent. -/
theorem montMul_montForm (x y : Nat) :
    montMul p np0 n (montForm p n x) (montForm p n y) = montForm p n (x * y) := by
  have below (v : Nat) : v % n < n := Nat.mod_lt v (Nat.zero_lt_of_lt (hn.one_lt hp))
  obtain ⟨-, -, inForm, -⟩ := montgomeryFormLaws p n np0 (x % n) (y % n) hp hn hnp (below x) (below y)
  change montMul p np0 n (montForm p n (x % n)) (montForm p n (y % n)) = montForm p n (x % n * (y % n) % n) at inForm
  rwa [← Nat.mul_mod, montForm_mod, montForm_mod, montForm_mod] at inForm

/-- R134: one factor in plain form brings the product back to plain form. -/
theorem montMul_montForm_plain (x : Nat) {y : Nat} (hy : y < n) :
    montMul p np0 n (montForm p n x) y = x * y % n := by
  have below : x % n < n := Nat.mod_lt x (Nat.zero_lt_of_lt hy)
  obtain ⟨-, -, -, mixed⟩ := montgomeryFormLaws p n np0 (x % n) y hp hn hnp below hy
  rwa [← montForm, montForm_mod, Nat.mod_mul_mod] at mixed

end

/-- Settles O39: RR brings the signature into Montgomery form, and the ladder runs over the forms (`ladder_eq_pow_mod`). -/
theorem montgomeryLadderComputesThePower : Obligations.MontgomeryLadderComputesThePower := by
  intro p n np0 sig e hp hn hnp hsig he
  obtain ⟨enter, -⟩ := montgomeryFormLaws p n np0 sig sig hp hn hnp hsig hsig
  rw [modExpMont_eq_ladder, enter, ← montForm, montMul_montForm hp hn hnp, ← Nat.pow_two]
  exact ladder_eq_pow_mod (montMul_montForm hp hn hnp) (montMul_montForm_plain hp hn hnp · hsig) he

/-! ### The guard of the exponentiating commands (R122, R161) -/

section
variable {s : State}

theorem State.exponentFault_of_not_ok (not3 : s.exp ≠ 3) (not65537 : s.exp ≠ 65537) :
    s.exponentFault = some .invalidExponent := by
  rw [State.exponentFault, exponentOk_not not3 not65537]
  rfl

variable (he : s.exp = 3 ∨ s.exp = 65537)
include he

theorem State.exponentFault_of_no_modulus (hv : s.status.modValid = false) :
    s.exponentFault = some .modulusNotSet := by
  rw [State.exponentFault, exponentOk_of he, hv]
  rfl

theorem State.exponentFault_of_range (hv : s.status.modValid = true) (hs : s.regN ≤ s.regS) :
    s.exponentFault = some .operandRange := by
  have notBelow : ¬ s.below .S = true := mt State.below_iff.1 hs.not_gt
  rw [State.exponentFault, exponentOk_of he, hv, Bool.eq_false_of_not_eq_true notBelow]
  rfl

theorem State.exponentFault_of_below (hv : s.status.modValid = true) (hs : s.regS < s.regN) :
    s.exponentFault = none := by
  have below : s.below .S = true := State.below_iff.2 hs
  rw [State.exponentFault, exponentOk_of he, hv, below]
  rfl

end

/-! ### The command (R163) -/

/-- What MODEXP does when its guard lets it: A takes the power, T the next free value (R27). -/
theorem exec_modexp (s : State) :
    exec .modexp s = guarded s.exponentFault
      (fun s => s.productEffect .A (modExp s.regS s.exp s.regN) s.nextFreeT) s := by
  simp only [exec, execModexp, exponentiate, complete_freeT_setBn]

/-- Settles O19: the guard asks for the exponent, the modulus and the signature in that order, and past it the ladder
computes the power (`modExp_eq_pow_mod`). -/
theorem modexpMeaning : Obligations.ModexpMeaning := by
  refine ⟨rfl, fun s not3 not65537 => ?exponent, fun s he hv => ?noModulus, fun s he hv hs => ?range,
    fun s he hv hs => ⟨_, s.nextFreeT_lt, ?power⟩⟩
  case exponent => rw [exec_modexp, State.exponentFault_of_not_ok not3 not65537, guarded_some]
  case noModulus => rw [exec_modexp, State.exponentFault_of_no_modulus he hv, guarded_some]
  case range => rw [exec_modexp, State.exponentFault_of_range he hv hs, guarded_some]
  case power => rw [exec_modexp, State.exponentFault_of_below he hv hs, guarded_none, modExp_eq_pow_mod he]

end Sys2Proof.Machine
end

section
/-! The byte order (R170 to R175): what stands at each index of a byte string that `LEBytes`, `SerBE` or `slice` builds, and
the command that serialises a register. A byte is a limb of 8 bits, so the bytes of a value are its digits (`sum_limbs`). -/

namespace Sys2Proof.Machine

/-! ### The bytes of a value (R170, R171, R174) -/

theorem getD_leBytes (v : Nat) {len k : Nat} (hk : k < len) :
    (leBytes v len).getD k 0 = BitVec.ofNat 8 (v / 2 ^ (8 * k)) := by
  rw [leBytes, List.getD_eq_getElem _ _ (by simpa using hk), List.getElem_map, List.getElem_range]

/-- R171: a byte of the reversed string is the one that stands as far from the other end. -/
theorem getD_reverseBytes {xs : List Byte} {j : Nat} (hj : j < xs.length) :
    (reverseBytes xs).getD j 0 = xs.getD (xs.length - 1 - j) 0 := by
  rw [reverseBytes, List.getD_eq_getElem _ _ (by simpa using hj), List.getElem_reverse, List.getD_eq_getElem]

theorem getD_serBE {p : Params} (v : Nat) {j : Nat} (hj : j < p.keyLen) :
    (serBE p v).getD j 0 = BitVec.ofNat 8 (v / 2 ^ (8 * (p.keyLen - 1 - j))) := by
  rw [serBE, getD_reverseBytes (by rwa [length_leBytes]), length_leBytes, getD_leBytes v (by omega)]

/-- R174, R22: the byte of weight `2^(8*k)` is limb `k` for limbs of 8 bits. -/
theorem toNat_getD_serBE {p : Params} (v : Nat) {k : Nat} (hk : k < p.keyLen) :
    ((serBE p v).getD (p.keyLen - 1 - k) 0).toNat = limb 8 v k := by
  have weight : p.keyLen - 1 - (p.keyLen - 1 - k) = k := by omega
  rw [getD_serBE v (by omega), weight, BitVec.toNat_ofNat, limb]

/-- Settles O40: `getD_serBE` for each byte, and `sum_limbs` for their sum, which the bound on `v` makes `v` itself. -/
theorem serializerIsBigEndian : Obligations.SerializerIsBigEndian := by
  refine ⟨List.reverse_reverse, fun p v hv => ⟨length_serBE p v, fun j hj => getD_serBE v hj, ?sum⟩⟩
  case sum =>
    calc v = ∑ k ∈ Finset.range p.keyLen, limb 8 v k * 2 ^ (8 * k) := by rw [sum_limbs, Nat.mod_eq_of_lt hv]
      _ = _ := Finset.sum_congr rfl fun k hk => by rw [toNat_getD_serBE v (Finset.mem_range.1 hk)]

/-! ### A range of bytes (R172) -/

/-- R172: inside the range the copy reads the source, past it the filling, which is zeros. -/
theorem getD_take_drop_append_zeros {xs : List Byte} {start n : Nat} (fits : start + n ≤ xs.length) (k i : Nat) :
    ((xs.drop start).take n ++ List.replicate k 0).getD i 0 = if i < n then xs.getD (start + i) 0 else 0 := by
  have copied : ((xs.drop start).take n).length = n := by
    rw [List.length_take, List.length_drop]
    omega
  split
  next inside =>
    rw [List.getD_append _ _ _ _ (by omega), List.getD_eq_getElem _ _ (by omega), List.getElem_take, List.getElem_drop,
      List.getD_eq_getElem]
  next past =>
    rw [List.getD_append_right _ _ _ _ (by omega), List.getD_eq_getElem?_getD,
      List.getElem?_getD_replicate_default_eq]

/-- Settles O41: `slice_ok`, read at each index by `getD_take_drop_append_zeros`. -/
theorem sliceCopiesAndFills : Obligations.SliceCopiesAndFills := by
  intro xs start stop m ordered inside
  refine ⟨fun long => if_pos long, fun fits => ⟨_, slice_ok fits, ?length, fun i _ => ?byte⟩⟩
  case length =>
    rw [List.length_append, List.length_take, List.length_drop, List.length_replicate]
    omega
  case byte => exact getD_take_drop_append_zeros (by omega) _ i

/-! ### The command SERBE (R175) -/

/-- What EM holds after a serialisation, at every index. -/
theorem read_ofBytes_serBE (p : Params) (v j : Nat) :
    (Memory.ofBytes (serBE p v)).read j =
      if j < p.keyLen then BitVec.ofNat 8 (v / 2 ^ (8 * (p.keyLen - 1 - j))) else 0 := by
  rw [Memory.read_ofBytes]
  split
  next inside => exact getD_serBE v inside
  next past => exact List.getD_eq_default _ _ (by rw [length_serBE]; omega)

/-- R5: MOD_BITS fit into KEY_LEN bytes. -/
theorem modBits_le_bytes (p : Params) : p.modBits ≤ 8 * p.keyLen := by
  rw [Params.keyLen, ceilDiv]
  omega

/-- R175: an accepted modulus fits into KEY_LEN bytes, and so does every value below it. -/
theorem ValidModulus.lt_bytes {p : Params} {n : Nat} (h : ValidModulus p n) : n < 2 ^ (8 * p.keyLen) :=
  h.high.trans_le (Nat.pow_le_pow_right (by omega) (modBits_le_bytes p))

section
variable {s : State} {ra : Reg}

theorem exec_serbe_of_too_long (h : 2 ^ (8 * s.params.keyLen) ≤ s.bn ra) :
    exec (.serbe ra) s = .next (raiseFault .operandRange s) := by
  rw [exec, execSerbe, State.serializeFault, if_pos h, guarded_some]

theorem exec_serbe_of_fits (h : s.bn ra < 2 ^ (8 * s.params.keyLen)) :
    exec (.serbe ra) s = .next (complete (serialize ra s)) := by
  rw [exec, execSerbe, State.serializeFault, if_neg h.not_ge, guarded_none]

end

/-- Settles O20: a sound state's modulus fits the bytes of EM (`ValidModulus.lt_bytes`), and a value that fits leaves its
serialisation there, a buffer in canonical form. -/
theorem serbeMeaning : Obligations.SerbeMeaning := by
  refine ⟨fun ra => ?word, fun s ra => exec_serbe_of_too_long, fun s ra h hv below => ?noFault, fun s ra fits => ?serialized⟩
  case word => rw [encode, toNat_packWord]; rfl
  case noFault => exact below.trans (h.modulus hv).lt_bytes
  case serialized =>
    exact ⟨_, Memory.wf_ofBytes _, read_ofBytes_serBE s.params (s.bn ra), exec_serbe_of_fits fits⟩

end Sys2Proof.Machine
end

section
/-! The mask generator (R186 to R190): what the concatenated digests hold at each index, which the length, the bytes and the
prefixes of a mask follow from, and the command that fills MASK. -/

namespace Sys2Proof.Machine

/-! ### The concatenated digests (R186) -/

/-- The digests of the inputs `xs`, one after the other. -/
def hashBlocks (hash : HashPort) (xs : List (List Byte)) : List Byte := xs.flatMap fun x => (hash x).toList

@[simp] theorem length_hashBlocks (hash : HashPort) (xs : List (List Byte)) :
    (hashBlocks hash xs).length = xs.length * 32 := by
  simp [hashBlocks, List.length_flatMap]

/-- A digest has 32 bytes (R185), so byte `k` is byte `k mod 32` of the digest of input `k div 32`. -/
theorem getElem?_hashBlocks (hash : HashPort) : ∀ (xs : List (List Byte)) (k : Nat),
    (hashBlocks hash xs)[k]? = xs[k / 32]?.bind fun x => (hash x).toList[k % 32]?
  | [], k => by simp [hashBlocks]
  | x :: xs, k => by
    have first : (hash x).toList.length = 32 := Vector.length_toList
    change ((hash x).toList ++ hashBlocks hash xs)[k]? = _
    rcases Nat.lt_or_ge k 32 with inside | past
    · rw [List.getElem?_append_left (by omega), Nat.div_eq_of_lt inside, Nat.mod_eq_of_lt inside]
      rfl
    · obtain ⟨j, rfl⟩ := Nat.exists_eq_add_of_le' past
      rw [List.getElem?_append_right (by omega), first, Nat.add_sub_cancel, getElem?_hashBlocks hash xs j,
        Nat.add_div_right j (by omega), Nat.add_mod_right, List.getElem?_cons_succ]

/-! ### The mask (R186 to R189) -/

@[simp] theorem length_mgf1Inputs (seed : List Byte) (len : Nat) : (mgf1Inputs seed len).length = len / 32 + 1 := by
  simp [mgf1Inputs]

/-- The mask that `mgf1` answers with below its bound (`mgf1_eq_mask`). -/
def mgf1Mask (hash : HashPort) (seed : List Byte) (len : Nat) : List Byte :=
  (hashBlocks hash (mgf1Inputs seed len)).take len

theorem mgf1_eq_mask {hash : HashPort} {seed : List Byte} {len : Nat} (short : len < 2 ^ 37) :
    mgf1 hash seed len = .ok (mgf1Mask hash seed len) :=
  mgf1_ok short

theorem mgf1_eq_error {hash : HashPort} {seed : List Byte} {len : Nat} (long : 2 ^ 37 ≤ len) :
    mgf1 hash seed len = .error .maskTooLong :=
  if_neg (Nat.not_lt.2 long)

section
variable (hash : HashPort) (seed : List Byte)

/-- The `len div 32 + 1` digests are longer than the mask (R187). -/
@[simp] theorem length_mgf1Mask (len : Nat) : (mgf1Mask hash seed len).length = len := by
  rw [mgf1Mask, List.length_take, length_hashBlocks, length_mgf1Inputs]
  omega

/-- R186: byte `k` is byte `k mod 32` of the digest of the seed and the counter `k div 32`. -/
theorem getD_mgf1Mask {len k : Nat} (inside : k < len) :
    (mgf1Mask hash seed len).getD k 0 = (hash (seed ++ be32 (k / 32))).toList.getD (k % 32) 0 := by
  have input : (mgf1Inputs seed len)[k / 32]? = some (seed ++ be32 (k / 32)) := by
    rw [mgf1Inputs, List.getElem?_map, List.getElem?_range (by omega)]
    rfl
  rw [mgf1Mask, List.getD_eq_getElem?_getD, List.getElem?_take_of_lt inside, getElem?_hashBlocks, input,
    List.getD_eq_getElem?_getD]
  rfl

/-- R189: the shorter mask has its first inputs, and so its first digests, in common with the longer one. -/
theorem take_mgf1Mask {len len' : Nat} (le : len' ≤ len) : (mgf1Mask hash seed len).take len' = mgf1Mask hash seed len' := by
  have inputs : mgf1Inputs seed len' <+: mgf1Inputs seed len := by
    have counters : (List.range (len / 32 + 1)).take (len' / 32 + 1) = List.range (len' / 32 + 1) := by
      rw [List.take_range, Nat.min_eq_left (by omega)]
    rw [mgf1Inputs, mgf1Inputs, ← counters]
    exact (List.take_prefix _ _).map _
  obtain ⟨rest, digests⟩ : hashBlocks hash (mgf1Inputs seed len') <+: hashBlocks hash (mgf1Inputs seed len) :=
    inputs.flatMap _
  rw [mgf1Mask, mgf1Mask, List.take_take, Nat.min_eq_left le, ← digests, List.take_append_of_le_length]
  rw [length_hashBlocks, length_mgf1Inputs]
  omega

end

/-- Settles O42: below the bound the answer is `mgf1Mask`, whose length and prefixes are known. -/
theorem masksArePrefixStable : Obligations.MasksArePrefixStable := by
  intro hash seed len
  refine ⟨mgf1_eq_error, length_mgf1Inputs seed len, fun short =>
    ⟨_, mgf1_eq_mask short, length_mgf1Mask hash seed len, fun len' le => ?shorter⟩⟩
  case shorter => rw [mgf1_eq_mask (le.trans_lt short), take_mgf1Mask hash seed le]

/-! ### The command MGF1 (R190) -/

/-- What MASK holds after a mask of `len` bytes, at every index. -/
theorem read_ofBytes_mgf1Mask (hash : HashPort) (seed : List Byte) (len k : Nat) :
    (Memory.ofBytes (mgf1Mask hash seed len)).read k =
      if k < len then (hash (seed ++ be32 (k / 32))).toList.getD (k % 32) 0 else 0 := by
  rw [Memory.read_ofBytes]
  split
  next inside => exact getD_mgf1Mask hash seed inside
  next past => exact List.getD_eq_default _ _ (by rw [length_mgf1Mask]; omega)

theorem execMgf1On_of_too_long (hash : HashPort) {s : State} (long : s.params.maskCap < s.mlen.toNat) :
    execMgf1On hash s = .next (raiseFault .bufferCapacity s) := by
  rw [execMgf1On, State.maskFault, if_pos long, guarded_some]

/-- R40, R188: MLEN has 32 bits, so a mask that fits MASK is below the bound of `mgf1`. -/
theorem execMgf1On_of_fits (hash : HashPort) {s : State} (fits : s.mlen.toNat ≤ s.params.maskCap) :
    execMgf1On hash s =
      .next (complete { s with mask := Memory.ofBytes (mgf1Mask hash s.seedBytes s.mlen.toNat) }) := by
  have short : s.mlen.toNat < 2 ^ 37 := s.mlen.isLt.trans (by decide)
  rw [execMgf1On, State.maskFault, if_neg fits.not_gt, guarded_none, fillMask, mgf1_eq_mask short]

/-- Settles O21: MASK is filled from `mgf1Mask`, a buffer in canonical form with known bytes, over every port; `exec` uses
the port of SHA-256. -/
theorem mgf1Meaning : Obligations.Mgf1Meaning := by
  refine ⟨rfl, fun s => execMgf1On_of_too_long sha256, fun s fits =>
    ⟨fun hash => Memory.ofBytes (mgf1Mask hash s.seedBytes s.mlen.toNat), fun hash => ?anyPort,
      execMgf1On_of_fits sha256 fits⟩⟩
  case anyPort => exact ⟨Memory.wf_ofBytes _, read_ofBytes_mgf1Mask hash _ _, execMgf1On_of_fits hash fits⟩

end Sys2Proof.Machine
end

section
/-! Which inputs reach the hash port (R185): 36 bytes, a seed of 32 and a counter, in the mask generator; 72 bytes, M', in
the PSS validator. Both lengths follow from the fixed lengths of the buffers and of the slices of EM. -/

namespace Sys2Proof.Machine

theorem length_of_mem_mgf1Inputs {seed x : List Byte} {len : Nat} (hx : x ∈ mgf1Inputs seed len) :
    x.length = seed.length + 4 := by
  obtain ⟨i, -, rfl⟩ := List.mem_map.1 hx
  rw [List.length_append]
  rfl

theorem length_of_mgf1_eq_ok {hash : HashPort} {seed m : List Byte} {len : Nat} (h : mgf1 hash seed len = .ok m) :
    m.length = len := by
  rcases Nat.lt_or_ge len (2 ^ 37) with short | long
  · rw [mgf1_eq_mask short] at h
    cases h
    exact length_mgf1Mask hash seed len
  · rw [mgf1_eq_error long] at h
    cases h

@[simp] theorem length_seedBytes (s : State) : s.seedBytes.length = 32 := Memory.length_bytes s.seed 32
@[simp] theorem length_mhashBytes (s : State) : s.mhashBytes.length = 32 := Memory.length_bytes s.mhash hLen
@[simp] theorem length_emBytes (s : State) : s.emBytes.length = s.params.keyLen := Memory.length_bytes s.em s.params.keyLen

@[simp] theorem length_unmask (maskedDB dbMask : List Byte) :
    (unmask maskedDB dbMask).length = min maskedDB.length dbMask.length := by
  simp [unmask]

/-- R172: a range inside the source that fits its destination is copied to a string of the destination's length. -/
theorem exists_slice_eq_ok {xs : List Byte} {start stop m : Nat} (ordered : start ≤ stop) (inside : stop ≤ xs.length)
    (fits : stop - start ≤ m) : ∃ ys, slice xs start stop m = .ok ys ∧ ys.length = m := by
  obtain ⟨-, copies⟩ := sliceCopiesAndFills xs start stop m ordered inside
  obtain ⟨ys, answer, length, -⟩ := copies fits
  exact ⟨ys, answer, length⟩

section
variable {h₁ h₂ : HashPort} (agree : ∀ x : List Byte, x.length = 36 ∨ x.length = 72 → h₁ x = h₂ x)
include agree

theorem mgf1_eq_of_agree {seed : List Byte} (hs : seed.length = 32) (len : Nat) : mgf1 h₁ seed len = mgf1 h₂ seed len := by
  have digests : hashBlocks h₁ (mgf1Inputs seed len) = hashBlocks h₂ (mgf1Inputs seed len) :=
    List.flatMap_congr fun x hx => by rw [agree x (.inl (by rw [length_of_mem_mgf1Inputs hx, hs]))]
  rcases Nat.lt_or_ge len (2 ^ 37) with short | long
  · rw [mgf1_eq_mask short, mgf1_eq_mask short, mgf1Mask, mgf1Mask, digests]
  · rw [mgf1_eq_error long, mgf1_eq_error long]

/-- The slices of EM and of the data block have their lengths (R201 to R211), so the seed has 32 bytes and M' has 72. -/
theorem pssCheck_eq_of_agree {p : Params} {mHash em : List Byte} (hHash : mHash.length = 32) (hem : em.length = p.keyLen) :
    pssCheck h₁ p mHash em = pssCheck h₂ p mHash em := by
  by_cases short : p.emLen < hLen + sLen + 2
  · rw [pssCheck, pssCheck, if_pos short, if_pos short]
  have sizes := emLen_le_keyLen p
  have layout : p.pssOffset + p.dbLen + 33 = p.keyLen ∧ 33 ≤ p.dbLen := by
    simp only [Params.pssOffset, Params.dbLen, hLen, sLen] at short ⊢
    omega
  obtain ⟨maskedDB, sliceDB, lengthDB⟩ : ∃ ys, slice em p.pssOffset (p.pssOffset + p.dbLen) p.dbLen = .ok ys ∧
      ys.length = p.dbLen := exists_slice_eq_ok (by omega) (by omega) (by omega)
  obtain ⟨seed, sliceH, lengthH⟩ : ∃ ys, slice em (p.pssOffset + p.dbLen) (p.keyLen - 1) hLen = .ok ys ∧
      ys.length = hLen := exists_slice_eq_ok (by omega) (by omega) (by rw [hLen]; omega)
  simp only [pssCheck, if_neg short, sliceDB, sliceH, bind, Except.bind, mgf1_eq_of_agree agree lengthH]
  cases mask : mgf1 h₂ seed p.dbLen with
  | error c => rfl
  | ok dbMask =>
    have lengthUnmasked : (unmask maskedDB dbMask).length = p.dbLen := by
      rw [length_unmask, lengthDB, length_of_mgf1_eq_ok mask, Nat.min_self]
    obtain ⟨salt, sliceSalt, lengthSalt⟩ : ∃ ys, slice (unmask maskedDB dbMask) (p.dbLen - sLen) p.dbLen sLen = .ok ys ∧
        ys.length = sLen := exists_slice_eq_ok (by omega) (by omega) (by rw [sLen]; omega)
    have lengthM : (mPrime mHash salt).length = 72 := by
      simp [mPrime, hHash, lengthSalt, sLen]
    simp only [sliceSalt, agree _ (.inr lengthM)]

theorem fillMask_eq_of_agree : fillMask h₁ = fillMask h₂ :=
  funext fun s => by rw [fillMask, fillMask, mgf1_eq_of_agree agree (length_seedBytes s)]

theorem checkPss_eq_of_agree : checkPss h₁ = checkPss h₂ :=
  funext fun s => by
    rw [checkPss, checkPss, pssCheck_eq_of_agree agree (length_mhashBytes s) (length_emBytes s)]

end

/-- Settles O43: the three commands reach the port through the mask generator and the PSS validator alone. -/
theorem hashPortSeesTwoLengthsOnly : Obligations.HashPortSeesTwoLengthsOnly := by
  intro h₁ h₂ s agree
  refine ⟨?mgf1, ?psschk, ?verifypss⟩
  case mgf1 => rw [execMgf1On, execMgf1On, fillMask_eq_of_agree agree]
  case psschk => rw [execPsschkOn, execPsschkOn, checkPss_eq_of_agree agree]
  case verifypss => rw [execVerifypssOn, execVerifypssOn, checkPss_eq_of_agree agree]

end Sys2Proof.Machine
end

section
/-! The answer of the PSS padding validator (R200 to R215): one equation per case, on the strings that it slices out of EM;
and the blocks on which the answer is always false. -/

namespace Sys2Proof.Machine

/-! ### The answer (R215) -/

section
variable (hash : HashPort) (p : Params) (em : List Byte)

/-- R203: the slice of EM that the validator unmasks (`pssCheck_of_large`). -/
def pssMaskedDB : List Byte := (em.drop p.pssOffset).take p.dbLen

/-- R203: the slice H of EM, the seed of the mask (`pssCheck_of_large`). -/
def pssSeed : List Byte := (em.drop (p.pssOffset + p.dbLen)).take hLen

/-- R205, R206: the data block, unmasked and with its first byte 0 (`pssCheck_of_large`). -/
def pssDataBlock : List Byte := unmask (pssMaskedDB p em) (mgf1Mask hash (pssSeed p em) p.dbLen)

/-- R210: the last 32 bytes of a data block (`pssCheck_of_large`). -/
def saltSlice (db : List Byte) : List Byte := (db.drop (p.dbLen - sLen)).take sLen

/-- R214: the conjunction of the four tests (`pssCheck_of_large`). -/
def pssVerdict (mHash : List Byte) : Bool :=
  trailerOk p em && maskedBitsOk p (pssMaskedDB p em) && paddingOk p (pssDataBlock hash p em) &&
    pssSeed p em == (hash (mPrime mHash (saltSlice p (pssDataBlock hash p em)))).toList

end

section
variable {hash : HashPort} {p : Params} {mHash em : List Byte}

/-- R5, R203: the validator's slices lie one behind the other in EM. -/
theorem pss_layout (large : 66 ≤ p.emLen) :
    p.pssOffset + p.dbLen + 33 = p.keyLen ∧ p.psLen + 33 = p.dbLen := by
  have sizes := emLen_le_keyLen p
  simp only [Params.pssOffset, Params.dbLen, Params.psLen, hLen, sLen]
  omega

theorem getD_pssMaskedDB {i : Nat} (inside : i < p.dbLen) : (pssMaskedDB p em).getD i 0 = em.getD (p.pssOffset + i) 0 := by
  rw [pssMaskedDB, List.getD_eq_getElem?_getD, List.getElem?_take_of_lt inside, List.getElem?_drop,
    List.getD_eq_getElem?_getD]

/-- R172: a range as long as its destination is copied without filling. -/
theorem slice_eq_take_drop {xs : List Byte} {start stop m : Nat} (exact : stop - start = m) :
    slice xs start stop m = .ok ((xs.drop start).take m) := by
  rw [slice_ok exact.le, exact, Nat.sub_self, List.replicate_zero, List.append_nil]

/-- R201, step 1. -/
theorem pssCheck_of_small (small : p.emLen < 66) : pssCheck hash p mHash em = .ok false := if_pos small

/-- R215: past step 1 no slice fails (R173), so only a mask that is too long keeps the verdict back. -/
theorem pssCheck_of_large (large : 66 ≤ p.emLen) :
    pssCheck hash p mHash em =
      if p.dbLen < 2 ^ 37 then .ok (pssVerdict hash p em mHash) else .error .maskTooLong := by
  obtain ⟨layout, block⟩ := pss_layout large
  have maskedDB : slice em p.pssOffset (p.pssOffset + p.dbLen) p.dbLen = .ok (pssMaskedDB p em) :=
    slice_eq_take_drop (by omega)
  have seed : slice em (p.pssOffset + p.dbLen) (p.keyLen - 1) hLen = .ok (pssSeed p em) :=
    slice_eq_take_drop (by rw [hLen]; omega)
  have salt (db : List Byte) : slice db (p.dbLen - sLen) p.dbLen sLen = .ok (saltSlice p db) :=
    slice_eq_take_drop (by rw [sLen]; omega)
  have notSmall : ¬ p.emLen < hLen + sLen + 2 := large.not_gt
  simp only [pssCheck, if_neg notSmall, maskedDB, seed, bind, Except.bind]
  split_ifs with short
  · simp only [mgf1_eq_mask short, salt]
    rfl
  · rw [mgf1_eq_error (Nat.not_lt.1 short)]

/-- R5, R188: the mask of a block that can be built is below the bound of `mgf1`. -/
theorem pssCheck_eq_verdict (bits : p.modBits < 2 ^ 32) (large : 66 ≤ p.emLen) :
    pssCheck hash p mHash em = .ok (pssVerdict hash p em mHash) := by
  have short : p.dbLen < 2 ^ 37 := by
    simp only [Params.dbLen, Params.emLen, Params.emBits, ceilDiv]
    omega
  rw [pssCheck_of_large large, if_pos short]

end

/-! ### Unmasking (R206) -/

theorem getD_set_zero (xs : List Byte) : (xs.set 0 0).getD 0 0 = 0 := by cases xs <;> rfl

/-- R206: the whole first byte is forced to 0. -/
theorem getD_unmask_zero (maskedDB dbMask : List Byte) : (unmask maskedDB dbMask).getD 0 0 = 0 :=
  getD_set_zero _

theorem getD_unmask {maskedDB dbMask : List Byte} {i : Nat} (pos : i ≠ 0) (inDB : i < maskedDB.length)
    (inMask : i < dbMask.length) : (unmask maskedDB dbMask).getD i 0 = maskedDB.getD i 0 ^^^ dbMask.getD i 0 := by
  have inside : i < (unmask maskedDB dbMask).length := by rw [length_unmask]; omega
  rw [List.getD_eq_getElem _ _ inside, List.getD_eq_getElem _ _ inDB, List.getD_eq_getElem _ _ inMask]
  simp only [unmask]
  rw [List.getElem_set_ne pos.symm, List.getElem_zipWith]

/-- R217 item 4: what the first byte was leaves no trace. -/
theorem unmask_set_zero (maskedDB dbMask : List Byte) (b : Byte) :
    unmask (maskedDB.set 0 b) dbMask = unmask maskedDB dbMask := by
  cases maskedDB <;> cases dbMask <;> rfl

/-- Exclusive or with the same mask twice cancels. -/
theorem unmask_unmask {db dbMask : List Byte} (length : db.length = dbMask.length) :
    unmask (unmask db dbMask) dbMask = db.set 0 0 := by
  have cancel : List.zipWith (· ^^^ ·) (List.zipWith (· ^^^ ·) db dbMask) dbMask = db := by
    refine List.ext_getElem (by simp [length]) fun i _ _ => ?_
    rw [List.getElem_zipWith, List.getElem_zipWith, BitVec.xor_assoc, BitVec.xor_self, BitVec.xor_zero]
  calc unmask (unmask db dbMask) dbMask = unmask (List.zipWith (· ^^^ ·) db dbMask) dbMask := unmask_set_zero _ _ 0
    _ = db.set 0 0 := by rw [unmask, cancel]

theorem paddingOk_iff {p : Params} {db : List Byte} :
    paddingOk p db = true ↔ (∀ i, i < p.psLen → db.getD i 0 = 0) ∧ db.getD p.psLen 0 = 0x01 := by
  simp only [paddingOk, Bool.and_eq_true, List.all_eq_true, List.mem_range, beq_iff_eq]

/-- Settles O44: from 522 bits on the padding is empty, and the separator is looked for in the byte that unmasking forces
to 0 (R217 items 1 and 2). -/
theorem shortKeysNeverPassPss : Obligations.ShortKeysNeverPassPss := by
  intro hash p mHash em bits
  rcases Nat.lt_or_ge p.emLen 66 with small | large
  · exact pssCheck_of_small small
  have noPadding : p.psLen = 0 := by
    simp only [Params.psLen, Params.emLen, Params.emBits, ceilDiv, hLen, sLen]
    omega
  have rejected : paddingOk p (pssDataBlock hash p em) = false := by
    refine Bool.eq_false_iff.2 fun accepted => ?_
    obtain ⟨-, separator⟩ := paddingOk_iff.1 accepted
    rw [noPadding, pssDataBlock, getD_unmask_zero] at separator
    exact absurd separator (by decide)
  rw [pssCheck_eq_verdict (by omega) large, pssVerdict, rejected, Bool.and_false, Bool.false_and]

end Sys2Proof.Machine
end

section
/-! The bits of EM that the PSS validator does not examine (R217 items 3 and 4). -/

namespace Sys2Proof.Machine

section
variable {hash : HashPort} {p : Params} {mHash em : List Byte} {b : Byte} {j : Nat}

theorem trailerOk_set (before : j < p.keyLen - 1) : trailerOk p (em.set j b) = trailerOk p em := by
  rw [trailerOk, trailerOk, List.getD_eq_getElem?_getD, List.getElem?_set_ne before.ne, List.getD_eq_getElem?_getD]

theorem pssSeed_set (before : j < p.pssOffset + p.dbLen) : pssSeed p (em.set j b) = pssSeed p em := by
  rw [pssSeed, pssSeed, List.drop_set_of_lt before]

/-- R217 item 3: a byte before maskedDB is in no slice. -/
theorem pssVerdict_set_skipped (large : 66 ≤ p.emLen) (skipped : j < p.pssOffset) :
    pssVerdict hash p (em.set j b) mHash = pssVerdict hash p em mHash := by
  obtain ⟨layout, -⟩ := pss_layout large
  have maskedDB : pssMaskedDB p (em.set j b) = pssMaskedDB p em := by
    rw [pssMaskedDB, pssMaskedDB, List.drop_set_of_lt skipped]
  have trailer : trailerOk p (em.set j b) = trailerOk p em := trailerOk_set (by omega)
  have seed : pssSeed p (em.set j b) = pssSeed p em := pssSeed_set (by omega)
  simp only [pssVerdict, pssDataBlock, trailer, maskedDB, seed]

/-- R217 item 4: the first byte of maskedDB is seen by the test of its top bits alone. -/
theorem pssVerdict_set_first (large : 66 ≤ p.emLen)
    (sameTop : b.toNat / 2 ^ (8 - p.bitsToMask) = (em.getD p.pssOffset 0).toNat / 2 ^ (8 - p.bitsToMask)) :
    pssVerdict hash p (em.set p.pssOffset b) mHash = pssVerdict hash p em mHash := by
  rcases Nat.lt_or_ge p.pssOffset em.length with inside | outside
  case inr => rw [List.set_eq_of_length_le outside]
  obtain ⟨layout, block⟩ := pss_layout large
  have maskedDB : pssMaskedDB p (em.set p.pssOffset b) = (pssMaskedDB p em).set 0 b := by
    rw [pssMaskedDB, pssMaskedDB, List.drop_set, if_neg (lt_irrefl _), Nat.sub_self, List.take_set]
  have topBits : maskedBitsOk p ((pssMaskedDB p em).set 0 b) = maskedBitsOk p (pssMaskedDB p em) := by
    have nonempty : 0 < (pssMaskedDB p em).length := by
      rw [pssMaskedDB, List.length_take, List.length_drop]
      omega
    have replaced : ((pssMaskedDB p em).set 0 b).getD 0 0 = b := by
      rw [List.getD_eq_getElem _ _ (by rwa [List.length_set]), List.getElem_set_self]
    rw [maskedBitsOk, maskedBitsOk, replaced, getD_pssMaskedDB (by omega), Nat.add_zero, sameTop]
  have trailer : trailerOk p (em.set p.pssOffset b) = trailerOk p em := trailerOk_set (by omega)
  have seed : pssSeed p (em.set p.pssOffset b) = pssSeed p em := pssSeed_set (by omega)
  simp only [pssVerdict, pssDataBlock, trailer, maskedDB, topBits, seed, unmask_set_zero]

/-- On a block past step 1 the answer depends on EM through the verdict alone; before it, not at all. -/
theorem pssCheck_congr_verdict {em' : List Byte}
    (same : 66 ≤ p.emLen → pssVerdict hash p em' mHash = pssVerdict hash p em mHash) :
    pssCheck hash p mHash em' = pssCheck hash p mHash em := by
  rcases Nat.lt_or_ge p.emLen 66 with small | large
  · rw [pssCheck_of_small small, pssCheck_of_small small]
  · rw [pssCheck_of_large large, pssCheck_of_large large, same large]

end

/-- R203: there is a skipped byte when `MOD_BITS mod 8 = 1`. -/
theorem pssOffset_pos {p : Params} (large : 66 ≤ p.emLen) (bits : p.modBits % 8 = 1) : 0 < p.pssOffset := by
  simp only [Params.pssOffset, Params.keyLen, Params.emLen, Params.emBits, ceilDiv] at large ⊢
  omega

/-- Settles O46: neither change alters the verdict (`pssVerdict_set_skipped`, `pssVerdict_set_first`). -/
theorem pssIgnoresSkippedBits : Obligations.PssIgnoresSkippedBits := by
  intro hash p mHash em b
  refine ⟨fun bits => ?skippedByte, fun sameTop => ?lowBits⟩
  case skippedByte =>
    exact pssCheck_congr_verdict fun large => pssVerdict_set_skipped large (pssOffset_pos large bits)
  case lowBits => exact pssCheck_congr_verdict fun large => pssVerdict_set_first large sameTop

end Sys2Proof.Machine
end

section
/-! The verdict of the PSS validator byte by byte (R201 to R213), and the command PSSCHK (R216), which puts it into RESULT. -/

namespace Sys2Proof.Machine

/-- A range of a string, byte by byte. -/
theorem take_drop_eq_map_range {xs : List Byte} {start n : Nat} (fits : start + n ≤ xs.length) :
    (xs.drop start).take n = (List.range n).map fun i => xs.getD (start + i) 0 := by
  refine List.ext_getElem ?length fun i _ inside => ?byte
  case length =>
    rw [List.length_take, List.length_drop, List.length_map, List.length_range]
    omega
  case byte =>
    rw [List.length_map, List.length_range] at inside
    rw [List.getElem_take, List.getElem_drop, List.getElem_map, List.getElem_range, List.getD_eq_getElem _ _ (by omega)]

section
variable {hash : HashPort} {p : Params} {mHash em : List Byte} (large : 66 ≤ p.emLen) (length : em.length = p.keyLen)
include large length

theorem length_pssMaskedDB : (pssMaskedDB p em).length = p.dbLen := by
  obtain ⟨layout, -⟩ := pss_layout large
  rw [pssMaskedDB, List.length_take, List.length_drop]
  omega

theorem pssSeed_eq_pssHash : pssSeed p em = pssHash p em := by
  obtain ⟨layout, -⟩ := pss_layout large
  rw [pssSeed, take_drop_eq_map_range (by rw [hLen]; omega), show p.pssOffset + p.dbLen = p.keyLen - 33 by omega]
  rfl

theorem length_pssDataBlock : (pssDataBlock hash p em).length = p.dbLen := by
  rw [pssDataBlock, length_unmask, length_pssMaskedDB large length, length_mgf1Mask, Nat.min_self]

theorem getD_pssDataBlock {i : Nat} (inside : i < p.dbLen) :
    (pssDataBlock hash p em).getD i 0 = pssDbByte hash p em i := by
  rw [pssDbByte]
  split
  next first => rw [first, pssDataBlock, getD_unmask_zero]
  next later =>
    rw [pssDataBlock, getD_unmask later (by rwa [length_pssMaskedDB large length]) (by rwa [length_mgf1Mask]),
      getD_pssMaskedDB inside, getD_mgf1Mask _ _ inside, pssSeed_eq_pssHash large length]
    rfl

theorem saltSlice_pssDataBlock : saltSlice p (pssDataBlock hash p em) = pssSalt hash p em := by
  obtain ⟨-, block⟩ := pss_layout large
  rw [saltSlice, take_drop_eq_map_range (by rw [length_pssDataBlock large length, sLen]; omega), pssSalt]
  refine List.map_congr_left fun i hi => ?_
  have inside : i < 32 := List.mem_range.1 hi
  rw [show p.dbLen - sLen = p.psLen + 1 by rw [sLen]; omega, getD_pssDataBlock large length (by omega)]

/-- The padding test, read through the bytes of the data block (R207). -/
theorem paddingOk_pssDataBlock_iff : paddingOk p (pssDataBlock hash p em) = true ↔
    (∀ i, i < p.psLen → pssDbByte hash p em i = 0) ∧ pssDbByte hash p em p.psLen = 0x01 := by
  obtain ⟨-, block⟩ := pss_layout large
  have byte {i : Nat} (inPadding : i ≤ p.psLen) : (pssDataBlock hash p em).getD i 0 = pssDbByte hash p em i :=
    getD_pssDataBlock large length (by omega)
  rw [paddingOk_iff, byte le_rfl]
  exact and_congr_left fun _ => forall₂_congr fun i below => by rw [byte below.le]

/-- R201 to R214: the four tests of the verdict are the steps of `PssAccepts`. -/
theorem pssVerdict_iff : pssVerdict hash p em mHash = true ↔ PssAccepts hash p mHash em := by
  obtain ⟨-, block⟩ := pss_layout large
  have first : (pssMaskedDB p em).getD 0 0 = em.getD p.pssOffset 0 := getD_pssMaskedDB (by omega)
  simp only [pssVerdict, Bool.and_eq_true, paddingOk_pssDataBlock_iff large length, saltSlice_pssDataBlock large length,
    pssSeed_eq_pssHash large length, trailerOk, maskedBitsOk, first, beq_iff_eq]
  constructor
  · rintro ⟨⟨⟨trailer, topBits⟩, zeros, separator⟩, sameHash⟩
    exact ⟨large, trailer, topBits, zeros, separator, sameHash.symm⟩
  · rintro ⟨-, trailer, topBits, zeros, separator, sameHash⟩
    exact ⟨⟨⟨trailer, topBits⟩, zeros, separator⟩, sameHash.symm⟩

end

/-- R216: the verdict on the buffers of a block that can be built. -/
theorem exists_pssCheck_iff (hash : HashPort) {p : Params} (legal : p.Legal) {mHash em : List Byte}
    (length : em.length = p.keyLen) :
    ∃ v, (v = true ↔ PssAccepts hash p mHash em) ∧ pssCheck hash p mHash em = .ok v := by
  obtain ⟨⟨-, bits⟩, -⟩ := legal
  rcases Nat.lt_or_ge p.emLen 66 with small | large
  · exact ⟨false, ⟨nofun, fun accepted => absurd accepted.size small.not_ge⟩, pssCheck_of_small small⟩
  · exact ⟨_, pssVerdict_iff large length, pssCheck_eq_verdict bits large⟩

/-- Settles O22: `exists_pssCheck_iff` gives the verdict that `checkPss_ok` puts into RESULT, over every port; `exec` uses
the port of SHA-256. -/
theorem psschkMeaning : Obligations.PsschkMeaning := by
  refine ⟨rfl, fun s legal => ?_⟩
  have anyPort (hash : HashPort) : ∃ v : Bool, (v = true ↔ PssAccepts hash s.params s.mhashBytes s.emBytes) ∧
      execPsschkOn hash s = .next (completeChecked v s) := by
    obtain ⟨v, verdict, answer⟩ := exists_pssCheck_iff hash legal (length_emBytes s)
    exact ⟨v, verdict, by rw [execPsschkOn, checkPss_ok answer]⟩
  exact ⟨anyPort, anyPort sha256⟩

end Sys2Proof.Machine
end

section
/-! The encoding that the PSS validator accepts (R203, R207, R212): for every hash port and every salt of 32 bytes, on a block
whose padding is not empty. -/

namespace Sys2Proof.Machine

/-- The 32 bytes of H that the encoding of `mHash` with the salt `salt` holds (R212). -/
def pssDigest (hash : HashPort) (mHash salt : List Byte) : List Byte := (hash (mPrime mHash salt)).toList

/-- The data block that carries `salt` (R207, R210). -/
def pssPlainBlock (p : Params) (salt : List Byte) : List Byte := List.replicate p.psLen 0 ++ 0x01 :: salt

/-- The encoded message for `mHash` with the salt `salt`, in the layout of R203; the first byte of its masked data block is
0, as `unmask` leaves it. `pssVerdict_pssEncode` ties it to the validator. -/
def pssEncode (hash : HashPort) (p : Params) (mHash salt : List Byte) : List Byte :=
  List.replicate p.pssOffset 0 ++
    (unmask (pssPlainBlock p salt) (mgf1Mask hash (pssDigest hash mHash salt) p.dbLen) ++
      (pssDigest hash mHash salt ++ [0xBC]))

section
variable {hash : HashPort} {p : Params} {mHash salt : List Byte}

@[simp] theorem length_pssDigest : (pssDigest hash mHash salt).length = 32 := Vector.length_toList

theorem paddingOk_pssPlainBlock : paddingOk p (pssPlainBlock p salt) = true := by
  have padding : (List.replicate p.psLen (0 : Byte)).length = p.psLen := List.length_replicate
  refine paddingOk_iff.2 ⟨fun i inside => ?zeros, ?separator⟩
  case zeros => rw [pssPlainBlock, List.getD_append _ _ _ _ (by omega), List.getD_replicate _ inside]
  case separator => rw [pssPlainBlock, List.getD_append_right _ _ _ _ (by omega), padding, Nat.sub_self, List.getD_cons_zero]

variable (large : 66 ≤ p.emLen) (length : salt.length = sLen)
include large length

theorem length_pssPlainBlock : (pssPlainBlock p salt).length = p.dbLen := by
  obtain ⟨-, block⟩ := pss_layout large
  rw [pssPlainBlock, List.length_append, List.length_replicate, List.length_cons, length, sLen]
  omega

theorem saltSlice_pssPlainBlock : saltSlice p (pssPlainBlock p salt) = salt := by
  obtain ⟨-, block⟩ := pss_layout large
  rw [saltSlice, show p.dbLen - sLen = p.psLen + 1 by rw [sLen]; omega, pssPlainBlock, ← List.drop_drop,
    List.drop_left' List.length_replicate, List.drop_one, List.tail_cons, List.take_of_length_le length.le]

theorem length_maskedBlock (seed : List Byte) :
    (unmask (pssPlainBlock p salt) (mgf1Mask hash seed p.dbLen)).length = p.dbLen := by
  rw [length_unmask, length_pssPlainBlock large length, length_mgf1Mask, Nat.min_self]

theorem length_pssEncode : (pssEncode hash p mHash salt).length = p.keyLen := by
  obtain ⟨layout, -⟩ := pss_layout large
  rw [pssEncode, List.length_append, List.length_append, List.length_append, List.length_replicate,
    length_maskedBlock large length, length_pssDigest, List.length_singleton]
  omega

theorem pssMaskedDB_pssEncode : pssMaskedDB p (pssEncode hash p mHash salt) =
    unmask (pssPlainBlock p salt) (mgf1Mask hash (pssDigest hash mHash salt) p.dbLen) := by
  rw [pssMaskedDB, pssEncode, List.drop_left' List.length_replicate, List.take_left' (length_maskedBlock large length _)]

theorem pssSeed_pssEncode : pssSeed p (pssEncode hash p mHash salt) = pssDigest hash mHash salt := by
  rw [pssSeed, pssEncode, ← List.drop_drop, List.drop_left' List.length_replicate,
    List.drop_left' (length_maskedBlock large length _), hLen, List.take_left' length_pssDigest]

theorem trailerOk_pssEncode : trailerOk p (pssEncode hash p mHash salt) = true := by
  have last : (pssEncode hash p mHash salt).getLast? = some 0xBC := by simp [pssEncode]
  rw [List.getLast?_eq_getElem?, length_pssEncode large length] at last
  rw [trailerOk, List.getD_eq_getElem?_getD, last]
  rfl

/-- The first byte of the masked block is 0, so none of its top bits is set (R204). -/
theorem maskedBitsOk_pssEncode : maskedBitsOk p (pssMaskedDB p (pssEncode hash p mHash salt)) = true := by
  rw [pssMaskedDB_pssEncode large length, maskedBitsOk, getD_unmask_zero, beq_iff_eq]
  exact Nat.zero_div _

end

section
variable {hash : HashPort} {p : Params} {mHash salt : List Byte} (large : 67 ≤ p.emLen) (length : salt.length = sLen)
include large length

/-- With at least one byte of padding the byte that unmasking forces to 0 was 0 (R206, R207). -/
theorem pssDataBlock_pssEncode : pssDataBlock hash p (pssEncode hash p mHash salt) = pssPlainBlock p salt := by
  have large' : 66 ≤ p.emLen := by omega
  obtain ⟨k, padding⟩ : ∃ k, p.psLen = k + 1 := by
    refine ⟨p.emLen - 67, ?_⟩
    simp only [Params.psLen, hLen, sLen]
    omega
  rw [pssDataBlock, pssSeed_pssEncode large' length, pssMaskedDB_pssEncode large' length,
    unmask_unmask (by rw [length_pssPlainBlock large' length, length_mgf1Mask]), pssPlainBlock, padding,
    List.replicate_succ]
  rfl

/-- The validator accepts the encoding, with any salt. -/
theorem pssVerdict_pssEncode : pssVerdict hash p (pssEncode hash p mHash salt) mHash = true := by
  have large' : 66 ≤ p.emLen := by omega
  rw [pssVerdict, trailerOk_pssEncode large' length, maskedBitsOk_pssEncode large' length,
    pssDataBlock_pssEncode large length, paddingOk_pssPlainBlock, saltSlice_pssPlainBlock large' length,
    pssSeed_pssEncode large' length, pssDigest, Bool.true_and, Bool.true_and, Bool.true_and, beq_iff_eq]

end

/-- Settles O45: the encoding with the salt of 32 zeros passes, for 530 bits leave room for a byte of padding. -/
theorem someEncodingPassesPssFrom530Bits : Obligations.SomeEncodingPassesPssFrom530Bits := by
  intro hash p mHash legal bits _
  obtain ⟨⟨-, bound⟩, -⟩ := legal
  have large : 67 ≤ p.emLen := by
    simp only [Params.emLen, Params.emBits, ceilDiv]
    omega
  have salt : (List.replicate sLen (0 : Byte)).length = sLen := List.length_replicate
  refine ⟨pssEncode hash p mHash (List.replicate sLen 0), length_pssEncode (by omega) salt, ?passes⟩
  rw [pssCheck_eq_verdict bound (by omega), pssVerdict_pssEncode large salt]

end Sys2Proof.Machine
end

section
/-! The PKCS#1 v1.5 comparator (R230 to R239): the checks of R232 to R235 walk the reversed EM segment by segment, from its
least significant byte on, and the segments make up the reversed string of R237. -/

namespace Sys2Proof.Machine

theorem allFrom_iff {lo len : Nat} {ok : Nat → Bool} : allFrom lo len ok = true ↔ ∀ j < len, ok (lo + j) = true := by
  simp only [allFrom, List.all_eq_true, List.mem_range]

theorem length_reverseBytes (xs : List Byte) : (reverseBytes xs).length = xs.length := List.length_reverse

theorem reverseBytes_inj {xs ys : List Byte} : reverseBytes xs = reverseBytes ys ↔ xs = ys := List.reverse_inj

/-- The string of R237 in the order of R231, least significant byte first. -/
theorem reverseBytes_pkcsString (p : Params) (h : List Byte) : reverseBytes (pkcsString p h) =
    reverseBytes h ++ (digestInfo ++ 0x00 :: (List.replicate (p.keyLen - 54) 0xFF ++ [0x01, 0x00])) := by
  simp [reverseBytes, pkcsString, digestInfo]

/-- R232: the hash is compared against the last 32 bytes of EM backwards. -/
theorem forall_leAt_hash_iff {p : Params} {h em : List Byte} (hash : h.length = 32) :
    (∀ j < 32, leAt p em j = (reverseBytes h).getD j 0) ↔ ∀ i < 32, leAt p em (31 - i) = h.getD i 0 := by
  have byte {j : Nat} (inside : j < 32) : (reverseBytes h).getD j 0 = h.getD (31 - j) 0 := by
    rw [getD_reverseBytes (by omega), hash]
  constructor
  · intro equal i inside
    rw [equal _ (by omega), byte (by omega), Nat.sub_sub_self (by omega)]
  · intro equal j inside
    rw [byte inside, ← equal _ (by omega), Nat.sub_sub_self (by omega)]

section
variable {p : Params} {em : List Byte} (length : em.length = p.keyLen)
include length

/-- R231: `LE` is the reversed EM. -/
theorem leAt_eq_getD_reverseBytes {k : Nat} (inside : k < p.keyLen) : leAt p em k = (reverseBytes em).getD k 0 := by
  rw [getD_reverseBytes (by omega), length, leAt]

/-- One byte of the walk: what is left of the reversed EM from `lo` on begins with `LE(lo)`. -/
theorem drop_reverseBytes_eq_cons_iff {lo : Nat} (inside : lo < p.keyLen) {b : Byte} {rest : List Byte} :
    (reverseBytes em).drop lo = b :: rest ↔ leAt p em lo = b ∧ (reverseBytes em).drop (lo + 1) = rest := by
  have bound : lo < (reverseBytes em).length := by rwa [length_reverseBytes, length]
  rw [List.drop_eq_getElem_cons bound, List.cons.injEq, leAt_eq_getD_reverseBytes length inside,
    List.getD_eq_getElem _ _ bound]

/-- One segment of the walk. -/
theorem drop_reverseBytes_eq_append_iff {rest : List Byte} : ∀ {seg : List Byte} {lo : Nat}, lo + seg.length ≤ p.keyLen →
    ((reverseBytes em).drop lo = seg ++ rest ↔
      (∀ j < seg.length, leAt p em (lo + j) = seg.getD j 0) ∧ (reverseBytes em).drop (lo + seg.length) = rest)
  | [], lo, _ => by simp
  | b :: seg, lo, fits => by
    rw [List.length_cons] at fits ⊢
    rw [List.cons_append, drop_reverseBytes_eq_cons_iff length (by omega), drop_reverseBytes_eq_append_iff (by omega),
      Nat.forall_lt_succ_left, ← and_assoc, Nat.add_right_comm, Nat.add_assoc lo]
    simp only [List.getD_cons_zero, List.getD_cons_succ, Nat.add_assoc, Nat.add_comm 1, Nat.add_zero]

/-- R237: the segments of the reversed string, one after the other. -/
theorem eq_pkcsString_iff {h : List Byte} (hash : h.length = 32) (large : 54 ≤ p.keyLen) : em = pkcsString p h ↔
    (∀ i < 32, leAt p em (31 - i) = h.getD i 0) ∧ (∀ j < 19, leAt p em (32 + j) = digestInfo.getD j 0) ∧
    leAt p em 51 = 0x00 ∧ (∀ j < p.keyLen - 54, leAt p em (52 + j) = 0xFF) ∧
    leAt p em (52 + (p.keyLen - 54)) = 0x01 ∧ leAt p em (53 + (p.keyLen - 54)) = 0x00 := by
  have hashLength : (reverseBytes h).length = 32 := (length_reverseBytes h).trans hash
  have infoLength : digestInfo.length = 19 := rfl
  have padding : (List.replicate (p.keyLen - 54) (0xFF : Byte)).length = p.keyLen - 54 := List.length_replicate
  have top : 32 + 19 + 1 + (p.keyLen - 54) + 1 = 53 + (p.keyLen - 54) := by omega
  have allRead : (reverseBytes em).drop (53 + (p.keyLen - 54) + 1) = [] := by
    rw [List.drop_eq_nil_iff, length_reverseBytes]
    omega
  rw [← reverseBytes_inj, reverseBytes_pkcsString, ← List.drop_zero (l := reverseBytes em),
    drop_reverseBytes_eq_append_iff length (by omega), hashLength, Nat.zero_add,
    drop_reverseBytes_eq_append_iff length (by omega), infoLength,
    drop_reverseBytes_eq_cons_iff length (by omega),
    drop_reverseBytes_eq_append_iff length (by omega), padding,
    drop_reverseBytes_eq_cons_iff length (by omega), drop_reverseBytes_eq_cons_iff length (by omega)]
  simp only [top, allRead, and_true, Nat.zero_add]
  exact and_congr (forall_leAt_hash_iff hash) <| and_congr_right' <| and_congr_right' <|
    and_congr_left' <| forall₂_congr fun j inside => by rw [List.getD_replicate _ inside]

end

/-- R236, R237: the comparator accepts one string, where the layout fits; the remaining bytes of R235 are none. -/
theorem pkcsCheck_iff {p : Params} {h em : List Byte} (hash : h.length = 32) (length : em.length = p.keyLen) :
    pkcsCheck p h em = true ↔ 54 ≤ p.keyLen ∧ em = pkcsString p h := by
  rcases Nat.lt_or_ge p.keyLen 54 with small | large
  · rw [pkcsCheck, if_pos small]
    exact ⟨nofun, fun fits => absurd fits.1 small.not_ge⟩
  · have noRest : p.keyLen - (54 + (p.keyLen - 54)) = 0 := by omega
    rw [pkcsCheck, if_neg large.not_gt, eq_pkcsString_iff length hash large]
    simp only [Bool.and_eq_true, allFrom_iff, beq_iff_eq, noRest, Nat.zero_add, Nat.add_sub_cancel_left,
      and_assoc, Nat.not_lt_zero, false_implies, implies_true, and_true, large, true_and]

/-- Settles O23: `pkcsCheck_iff` for the verdict that `checkPkcs` puts into RESULT. -/
theorem pkcschkMeaning : Obligations.PkcschkMeaning := by
  refine ⟨rfl, fun s => ?_⟩
  have verdict : pkcsCheck s.params s.mhashBytes s.emBytes =
      decide (54 ≤ s.params.keyLen ∧ s.emBytes = pkcsString s.params s.mhashBytes) := by
    rw [Bool.eq_iff_iff, decide_eq_true_iff, pkcsCheck_iff (length_mhashBytes s) (length_emBytes s)]
  rw [← verdict]
  rfl

end Sys2Proof.Machine
end

section
/-! The verifications and NOP (R250 to R255). Past its guard a verification is its checking command on the state whose
power has been serialised, so what it means, and that it equals the three commands, comes from the meanings of the
checks. -/

namespace Sys2Proof.Machine

/-- Settles O13: NOP completes, and acceptance touches the latched word and the flags alone. -/
theorem nopMeaning : Obligations.NopMeaning :=
  ⟨rfl, fun _ => rfl, fun _ => rfl⟩

/-! ### Past the guard (R251, R252) -/

/-- R251: the faults of a verification, in priority order, are those of MODEXP. -/
theorem verification_faults {i : Instr} (hi : i = .verifypss ∨ i = .verifypkcs) :
    (∀ s : State, s.exp ≠ 3 → s.exp ≠ 65537 → exec i s = .next (raiseFault .invalidExponent s)) ∧
    (∀ s : State, s.exp = 3 ∨ s.exp = 65537 → s.status.modValid = false →
      exec i s = .next (raiseFault .modulusNotSet s)) ∧
    (∀ s : State, s.exp = 3 ∨ s.exp = 65537 → s.status.modValid = true → s.regN ≤ s.regS →
      exec i s = .next (raiseFault .operandRange s)) := by
  have faults {s : State} {c : Cause} (h : s.exponentFault = some c) : exec i s = .next (raiseFault c s) := by
    rw [exec_verification hi, h, guarded_some]
  exact ⟨fun _ not3 not65537 => faults (State.exponentFault_of_not_ok not3 not65537),
    fun _ he hv => faults (State.exponentFault_of_no_modulus he hv),
    fun _ he hv hs => faults (State.exponentFault_of_range he hv hs)⟩

section
variable {s : State}

theorem exec_verifypss_eq_psschk (h : s.exponentFault = none) : exec .verifypss s = exec .psschk s.powered := by
  rw [exec_verification (.inl rfl), h]
  rfl

theorem exec_verifypkcs_eq_pkcschk (h : s.exponentFault = none) : exec .verifypkcs s = exec .pkcschk s.powered := by
  rw [exec_verification (.inr rfl), h]
  rfl

variable (he : s.exp = 3 ∨ s.exp = 65537)
include he

theorem State.powered_eq : s.powered = { s with
    regA := s.regS ^ s.exp.toNat % s.regN
    em := Memory.ofBytes (serBE s.params (s.regS ^ s.exp.toNat % s.regN))
    regT := s.nextFreeT
    freeCount := s.freeCount + 1 } := by
  rw [← modExp_eq_pow_mod he]
  rfl

theorem State.powered_emBytes : s.powered.emBytes = serBE s.params (s.regS ^ s.exp.toNat % s.regN) := by
  rw [← modExp_eq_pow_mod he]
  exact serialize_emBytes (exponentiate s) .A

end

/-- Settles O24: the guard is that of MODEXP, and past it `psschkMeaning` speaks of the serialised power. -/
theorem verifypssMeaning : Obligations.VerifypssMeaning := by
  obtain ⟨exponent, noModulus, range⟩ := verification_faults (.inl rfl)
  refine ⟨rfl, exponent, noModulus, range, fun s legal he hv hs => ?verdict⟩
  case verdict =>
    obtain ⟨v, accepts, run⟩ := (psschkMeaning.2 s.powered legal).2
    rw [State.powered_emBytes he] at accepts
    refine ⟨s.nextFreeT, v, s.nextFreeT_lt, accepts, ?_⟩
    rw [exec_verifypss_eq_psschk (State.exponentFault_of_below he hv hs), run, State.powered_eq he]

/-- Settles O25: as O24, with `pkcschkMeaning`. -/
theorem verifypkcsMeaning : Obligations.VerifypkcsMeaning := by
  obtain ⟨exponent, noModulus, range⟩ := verification_faults (.inr rfl)
  refine ⟨rfl, exponent, noModulus, range, fun s he hv hs => ⟨s.nextFreeT, s.nextFreeT_lt, ?verdict⟩⟩
  case verdict =>
    rw [exec_verifypkcs_eq_pkcschk (State.exponentFault_of_below he hv hs), pkcschkMeaning.2, State.powered_emBytes he,
      State.powered_eq he]
    rfl

/-! ### The integer of a byte string (R174, R255) -/

theorem limb_succ (w v j : Nat) : limb w v (j + 1) = limb w (v / 2 ^ w) j := by
  rw [limb, limb, Nat.div_div_eq_div_mul, ← Nat.pow_add, Nat.mul_succ, Nat.add_comm]

/-- R22: the limbs of an integer given by its digits are those digits. -/
theorem limb_sum_digits {w : Nat} : ∀ {n j : Nat} {d : Nat → Nat}, (∀ k, d k < 2 ^ w) → j < n →
    limb w (∑ k ∈ Finset.range n, d k * 2 ^ (w * k)) j = d j
  | n + 1, j, d, digit, inside => by
    have lowFirst : ∑ k ∈ Finset.range (n + 1), d k * 2 ^ (w * k) =
        d 0 + 2 ^ w * ∑ k ∈ Finset.range n, d (k + 1) * 2 ^ (w * k) := by
      rw [Finset.sum_range_succ', Finset.mul_sum, Nat.add_comm]
      congr 1
      · simp
      · exact Finset.sum_congr rfl fun k _ => by rw [Nat.mul_succ, Nat.pow_add]; ring
    rw [lowFirst]
    cases j with
    | zero => rw [limb_zero, Nat.add_mul_mod_self_left, Nat.mod_eq_of_lt (digit 0)]
    | succ j =>
      rw [limb_succ, Nat.add_mul_div_left _ _ (Nat.two_pow_pos w), Nat.div_eq_of_lt (digit 0), Nat.zero_add,
        limb_sum_digits (fun k => digit (k + 1)) (Nat.lt_of_succ_lt_succ inside)]

/-- R174: `SerBE` writes the integer of a string of KEY_LEN bytes as that string. -/
theorem serBE_sum_bytes {p : Params} {xs : List Byte} (length : xs.length = p.keyLen) :
    serBE p (∑ k ∈ Finset.range p.keyLen, (xs.getD (p.keyLen - 1 - k) 0).toNat * 2 ^ (8 * k)) = xs := by
  refine List.ext_getElem (by rw [length_serBE, length]) fun i inside inside' => BitVec.eq_of_toNat_eq ?_
  have weight : p.keyLen - 1 - i < p.keyLen := by omega
  have index : p.keyLen - 1 - (p.keyLen - 1 - i) = i := by omega
  have byte := toNat_getD_serBE (p := p)
    (∑ k ∈ Finset.range p.keyLen, (xs.getD (p.keyLen - 1 - k) 0).toNat * 2 ^ (8 * k)) weight
  rwa [limb_sum_digits (fun k => (xs.getD (p.keyLen - 1 - k) 0).isLt) weight, index, List.getD_eq_getElem _ _ inside,
    List.getD_eq_getElem _ _ inside'] at byte

theorem length_pkcsString {p : Params} {h : List Byte} (hash : h.length = 32) (large : 54 ≤ p.keyLen) :
    (pkcsString p h).length = p.keyLen := by
  simp only [pkcsString, List.length_append, List.length_replicate, List.length_cons, List.length_nil, hash]
  omega

/-- Settles O47: the serialised power is the string (`serBE_sum_bytes`), which PKCSCHK accepts (`pkcschkMeaning`). -/
theorem validPkcsSignatureVerifies : Obligations.ValidPkcsSignatureVerifies := by
  intro s hv he hs large power
  have em : s.powered.emBytes = pkcsString s.params s.mhashBytes := by
    rw [State.powered_emBytes he, power, serBE_sum_bytes (length_pkcsString (length_mhashBytes s) large)]
  exact ⟨_, (exec_verifypkcs_eq_pkcschk (State.exponentFault_of_below he hv hs)).trans (pkcschkMeaning.2 s.powered),
    decide_eq_true ⟨large, em⟩, rfl, em⟩

/-! ### The three commands (R253) -/

/-- A PSS check of a block that can be built answers, so it does not read the latched word. -/
theorem checkPss_with_cmd (hash : HashPort) {s : State} (legal : s.params.Legal) (w : Word) :
    checkPss hash { s with cmd := w } = { checkPss hash s with cmd := w } := by
  obtain ⟨b, answer⟩ := pssCheck_answers hash legal s.mhashBytes s.emBytes
  rw [checkPss_ok answer]
  exact checkPss_ok answer

theorem checkPkcs_with_cmd (s : State) (w : Word) : checkPkcs { s with cmd := w } = { checkPkcs s with cmd := w } := rfl

/-- The state of `MODEXP; SERBE A` from `s`, each command accepted first (R253). -/
def State.poweredByCommands (s : State) : State :=
  complete (serialize .A (acceptCommand (encode (.serbe .A))
    (complete (exponentiate (acceptCommand (encode .modexp) s)))))

/-- Acceptance of the check clears what the completions of `MODEXP; SERBE A` have set, so only the latched word differs. -/
theorem acceptCommand_poweredByCommands (s : State) (w w' : Word) :
    (acceptCommand w s).powered = { acceptCommand w' s.poweredByCommands with cmd := w } := by
  simp only [State.powered, State.poweredByCommands, serialize, State.setEm, exponentiate, freeT, State.setBn, State.bn,
    complete, acceptCommand, Status.accepted, Status.completed]

/-- Settles O48: the power of a sound state's modulus fits EM, and a verification checks the state that the first two
commands leave. -/
theorem verificationIsTheThreeCommands : Obligations.VerificationIsTheThreeCommands := by
  refine ⟨fun s h idle he hv hs => ?completes, fun s s₁ _ fault w => ?refused⟩
  case refused => exact ((commandWriteIsAcceptedWhenIdle s₁ w).2 (.inr fault)).1
  case completes =>
    obtain ⟨-, noFault⟩ := State.idle_iff.1 idle
    have guard (w : Word) : (acceptCommand w s).exponentFault = none := State.exponentFault_of_below he hv hs
    have fits : modExp s.regS s.exp s.regN < 2 ^ (8 * s.params.keyLen) := by
      rw [modExp_eq_pow_mod he]
      exact (Nat.mod_lt _ (Nat.zero_lt_of_lt hs)).trans (h.modulus hv).lt_bytes
    refine ⟨complete (exponentiate (acceptCommand (encode .modexp) s)), s.poweredByCommands,
      checkPss sha256 (acceptCommand (encode .psschk) s.poweredByCommands),
      checkPkcs (acceptCommand (encode .pkcschk) s.poweredByCommands), ?modexp, exec_serbe_of_fits fits, rfl, rfl,
      noFault, noFault, ?pss, ?pkcs⟩
    case modexp => rw [exec, execModexp, guard, guarded_none]
    case pss =>
      have legal : (acceptCommand (encode .psschk) s.poweredByCommands).params.Legal := h.legal
      rw [exec_verifypss_eq_psschk (guard _), acceptCommand_poweredByCommands s _ (encode .psschk),
        ← checkPss_with_cmd sha256 legal]
      rfl
    case pkcs =>
      rw [exec_verifypkcs_eq_pkcschk (guard _), acceptCommand_poweredByCommands s _ (encode .pkcschk),
        ← checkPkcs_with_cmd]
      rfl

/-! ### Repetition (R254) -/

theorem CommandWork.keeps_fault {i : Instr} {s u : State} (w : CommandWork s i u) : u.status.fault = s.status.fault := by
  cases w with
  | reduction | mmul | modmul => simp
  | nothing | context | wideProduct | power | bytes | mask | verifypss | verifypkcs => rfl

theorem CommandEnd.not_fault {i : Instr} {u t : State} (e : CommandEnd i u t) (ht : t.status.fault = false) :
    u.status.fault = false := by
  cases e with
  | done | verdict => exact ht
  | fault c => cases ht

/-- No command clears FAULT (R274). -/
theorem exec_not_fault {i : Instr} {s t : State} (h : exec i s = .next t) (ht : t.status.fault = false) :
    s.status.fault = false := by
  obtain ⟨u, work, ending⟩ := commandRun_of_exec h
  exact work.keeps_fault ▸ ending.not_fault ht

/-- Settles O49: a verification keeps its inputs, and `verdictDependsOnItsInputsOnly` compares the two runs. -/
theorem verificationIsIdempotent : Obligations.VerificationIsIdempotent := by
  intro i s t hi run noFault
  have notModset : i ≠ .modset := by rcases hi with rfl | rfl <;> nofun
  obtain ⟨params, regN, regS, mhash, -, exp, -⟩ := commandsKeepTheirInputs i s t run
  obtain ⟨-, -, modValid⟩ := (onlyTheirCommandsWriteBuffersAndContext i s t run).2.2 notModset
  obtain ⟨t', u, run', again, sameFault, same, -⟩ :=
    verdictDependsOnItsInputsOnly i s (acceptCommand (encode i) t) hi (congrArg Params.modBits params.symm) regN.symm
      regS.symm exp.symm mhash.symm modValid.symm (exec_not_fault run noFault) noFault
  cases run.symm.trans run'
  obtain ⟨regA, em, verified⟩ := same noFault
  exact ⟨u, again, regA.symm, em.symm, verified.symm, sameFault.symm.trans noFault⟩

end Sys2Proof.Machine
end

section
/-! Faults, resets and hazards (R272 to R276, R305 to R311, R318): what is left of a block by a fault, an idle turn or a reset,
and that every step answers a next state. -/

namespace Sys2Proof.Machine

/-! ### A command that faults (R272) -/

/-- On a block that can be built a command that does not fault keeps FAULT. -/
theorem exec_raises_or_keeps_fault {i : Instr} {s t : State} (legal : s.params.Legal) (h : exec i s = .next t) :
    (∃ c, t = raiseFault c s) ∨ t.status.fault = s.status.fault := by
  rcases exec_next legal h with ⟨c, -, -, rfl⟩ | ⟨-, rfl⟩ | ⟨-, -, rfl⟩ | ⟨ra, rb, -, rfl⟩ | ⟨rd, -, -, -, -, rfl⟩ |
    ⟨rd, ra, rb, v, -, -, -, -, -, rfl⟩ | ⟨-, -, -, -, rfl⟩ | ⟨ra, -, -, rfl⟩ | ⟨-, m, -, rfl⟩ | ⟨-, b, rfl⟩ | ⟨-, b, rfl⟩ |
    ⟨-, -, -, -, b, rfl⟩
  case inl => exact .inl ⟨c, rfl⟩
  all_goals exact .inr (by simp)

/-- Settles O26: a command that leaves another FAULT than it found has raised it in the state it found. -/
theorem faultsArePrecise : Obligations.FaultsArePrecise := by
  intro i s t legal run noFault faulted
  rcases exec_raises_or_keeps_fault legal run with ⟨c, rfl⟩ | keeps
  · exact ⟨c, rfl⟩
  · exact absurd (faulted.symm.trans (keeps.trans noFault)) (by decide)

/-! ### The core's turn (R74, R276, R305) -/

theorem coreTurn_of_illegal {s : State} {e : Illegal} (busy : s.status.busy = true) (word : decode s.cmd = .error e) :
    coreTurn s = .next (raiseFault .illegalCommand s) := by
  simp [coreTurn, busy, word]

theorem coreTurn_of_not_busy {s : State} (notBusy : s.status.busy = false) : coreTurn s = .next s := by
  simp [coreTurn, notBusy]

/-- The core has its turn when no event is pending and when its own comes first. -/
theorem step_of_core_turn {s : State} (turn : s.events = [] ∨ s.events.head? = some .core) :
    step s = coreTurn { s with events := s.events.tail } := by
  rcases turn with noEvent | first
  · have tail : s.events.tail = s.events := by rw [noEvent, List.tail_nil]
    rw [tail]
    exact step_of_no_event noEvent
  · obtain ⟨rest, first⟩ := List.head?_eq_some_iff.1 first
    rw [step_of_core_first first, first, List.tail_cons]

/-- Settles O7: `raiseFault` on the state with the turn taken off. -/
theorem illegalWordFaults : Obligations.IllegalWordFaults :=
  fun _ _ busy word turn => (step_of_core_turn turn).trans (coreTurn_of_illegal busy word)

/-- Settles O8: the turn of a core that is not busy. -/
theorem idleCoreHoldsItsState : Obligations.IdleCoreHoldsItsState :=
  fun _ notBusy => ⟨fun noEvent => (step_of_no_event noEvent).trans (coreTurn_of_not_busy notBusy),
    fun _ first => (step_of_core_first first).trans (coreTurn_of_not_busy notBusy)⟩

/-! ### A faulted block (R273, R274) -/

/-- Of all that the host can do to a faulted block only a reset changes it. -/
theorem HostEffect.same_or_reset {s t : State} (e : HostEffect s t) (faulted : s.status.fault = true) :
    t = s ∨ t = performReset s := by
  have notIdle := State.not_idle (.inr faulted)
  cases e with
  | same => exact .inl rfl
  | reset => exact .inr rfl
  | command _ idle | exponent _ idle | maskLength _ idle => exact absurd idle notIdle
  | limb _ _ _ idle => exact absurd idle notIdle
  | byte _ _ _ idle => exact absurd idle notIdle

/-- Settles O31: a faulted core is not busy, so its turn holds the state, and the host's is `HostEffect.same_or_reset`. -/
theorem faultedBlockIsFrozen : Obligations.FaultedBlockIsFrozen := by
  intro s t sound faulted run
  obtain ⟨rest, core | ⟨op, rfl⟩⟩ := step_turn run
  · obtain ⟨notBusy, -⟩ := sound.faultIdle faulted
    cases (coreTurn_of_not_busy (s := { s with events := rest }) notBusy).symm.trans core
    exact .inl ⟨rest, s.replies, rfl⟩
  · unfold hostTurn
    rcases (hostAccess_effect op { s with events := rest }).same_or_reset faulted with e | e
    · rw [e]
      exact .inl ⟨rest, _, rfl⟩
    · rw [e]
      exact .inr ⟨rest, _, s.freeCount, rfl⟩

/-! ### Nothing is stuck (R74, R318) -/

theorem guarded_answers (c : Option Cause) (f : State → State) (s : State) : ∃ t, guarded c f s = .next t := by
  cases c with
  | none => exact ⟨f s, rfl⟩
  | some k => exact ⟨raiseFault k s, rfl⟩

/-- Every command completes or faults: each is guarded, or has no condition at all. -/
theorem exec_answers (i : Instr) (s : State) : ∃ t, exec i s = .next t := by
  cases i with
  | nop | mul | psschk | pkcschk => exact ⟨_, rfl⟩
  | modset | redc | mmul | modmul | modexp | serbe | mgf1 | verifypss | verifypkcs =>
    simp only [exec, execModset, execRedc, execMmul, execModmul, execModexp, execSerbe, execMgf1, execMgf1On,
      execVerifypss, execVerifypssOn, execVerifypkcs]
    exact guarded_answers _ _ s

theorem CommandEnd.not_busy {i : Instr} {u t : State} (e : CommandEnd i u t) : t.status.busy = false := by
  cases e with
  | done | verdict | fault => rfl

/-- The core's turn leaves no command running and takes no event. -/
theorem coreTurn_answers (s : State) : ∃ t, coreTurn s = .next t ∧ t.status.busy = false ∧ t.events = s.events := by
  cases busy : s.status.busy with
  | false => exact ⟨s, coreTurn_of_not_busy busy, busy, rfl⟩
  | true =>
    cases word : decode s.cmd with
    | error e => exact ⟨_, coreTurn_of_illegal busy word, rfl, rfl⟩
    | ok i =>
      obtain ⟨t, run⟩ := exec_answers i s
      obtain ⟨u, -, ending⟩ := commandRun_of_exec run
      obtain ⟨-, -, -, -, -, -, -, -, events, -⟩ := commandsKeepTheirInputs i s t run
      exact ⟨t, (coreTurn_of_decode busy word).trans run, ending.not_busy, events⟩

theorem hostTurn_events (op : HostOp) (s : State) : (hostTurn op s).events = s.events :=
  (hostAccess_effect op s).keeps_events

/-- A step answers and takes the first event; with none pending it is the core's turn. -/
theorem step_answers (s : State) :
    ∃ t, step s = .next t ∧ t.events = s.events.tail ∧ (s.events = [] → t.status.busy = false) := by
  cases pending : s.events with
  | nil =>
    obtain ⟨t, turn, notBusy, events⟩ := coreTurn_answers s
    exact ⟨t, (step_of_no_event pending).trans turn, events.trans pending, fun _ => notBusy⟩
  | cons event rest =>
    cases event with
    | core =>
      obtain ⟨t, turn, -, events⟩ := coreTurn_answers { s with events := rest }
      exact ⟨t, (step_of_core_first pending).trans turn, events, nofun⟩
    | host op => exact ⟨_, step_of_host_first pending, hostTurn_events op _, nofun⟩

/-- Settles O9, by `step_answers`. -/
theorem stepAlwaysAnswersNext : Obligations.StepAlwaysAnswersNext := by
  intro s
  obtain ⟨t, answer, -⟩ := step_answers s
  exact ⟨t, answer⟩

theorem core_run_succ {s t : State} (n : Nat) (h : step s = .next t) : core.run (n + 1) s = core.run n t := by
  have h' : core.step s = .next t := h
  simp only [Host.Core.run, h']

/-- The last of the steps has no event to take, so it is the core's turn. -/
theorem run_answers : ∀ (n : Nat) (s : State), s.events.length = n →
    ∃ t, core.run (n + 1) s = .next t ∧ t.status.busy = false ∧ t.events = []
  | 0, s, length => by
    have noEvent := List.eq_nil_of_length_eq_zero length
    obtain ⟨t, answer, events, notBusy⟩ := step_answers s
    exact ⟨t, core_run_succ 0 answer, notBusy noEvent, events.trans (congrArg List.tail noEvent)⟩
  | n + 1, s, length => by
    obtain ⟨t, answer, events, -⟩ := step_answers s
    have left : t.events.length = n := by rw [events, List.length_tail, length, Nat.add_sub_cancel]
    rw [core_run_succ (n + 1) answer]
    exact run_answers n t left

/-- Settles O10, by induction on the events that are pending. -/
theorem acceptedCommandTerminates : Obligations.AcceptedCommandTerminates :=
  fun s => run_answers s.events.length s rfl

/-! ### Reset (R47, R310) -/

/-- The two ways to reset (R33, R310) have the same effect. -/
theorem hostAccess_of_reset {op : HostOp} (h : op = .hardReset ∨ ∃ v : Word, v.getLsbD 0 = true ∧ op = .csrWrite 0 v)
    (s : State) : hostAccess op s = (performReset s, .ok) := by
  rcases h with rfl | ⟨v, bit0, rfl⟩
  · rfl
  · rw [hostAccess, csrWrite, bit0]
    rfl

theorem performReset_buf (s : State) (b : Buf) : (performReset s).buf b = [] := by cases b <;> rfl

theorem performReset_bn (s : State) (r : Reg) : (performReset s).bn r = if r = .ONE then 1 else 0 := by cases r <;> rfl

theorem hostAccess_of_no_reset {v : Word} (bit0 : v.getLsbD 0 = false) (s : State) :
    hostAccess (.csrWrite 0 v) s = (s, .ok) := by
  rw [hostAccess, csrWrite, bit0]
  rfl

theorem statusWord_resetOf (p : Params) : statusWord (State.resetOf p).status = 0 := by
  simp only [State.resetOf]
  decide

theorem faultCodeWord_resetOf (p : Params) : faultCodeWord (State.resetOf p).faultCode = 0 := by
  simp only [State.resetOf]
  decide

/-- Settles O57: both resets are `performReset`, whose fields are those of the table of R47. -/
theorem resetClearsEverything : Obligations.ResetClearsEverything := by
  refine ⟨fun s v bit0 => hostAccess_of_no_reset bit0 s, fun s op reset => ?_⟩
  rw [hostAccess_of_reset reset]
  exact ⟨rfl, performReset_bn s, rfl, rfl, statusWord_resetOf s.params, rfl, rfl, rfl, faultCodeWord_resetOf s.params, rfl,
    fun b i => by rw [performReset_buf]; rfl, rfl⟩

end Sys2Proof.Machine
end
